-- ==== Sys2Proof/Word.lean ====
section
/-! DEFINITION. The word types of the engine and the narrowings of 00_scope.md R9. -/

namespace Sys2Proof

/-- A 32-bit register word (20_memory.md R74). -/
abbrev Word := BitVec 32

/-- A 16-bit count or lane (10_state.md R30, 42_colour.md R221). -/
abbrev Half := BitVec 16

/-- An 8-bit payload or field (10_state.md R47, 30_encoding.md R100). -/
abbrev Byte := BitVec 8

end Sys2Proof
end

