-- ==== Sys2Proof/Config.lean ====
section
/-! DEFINITION. The constants of 00_scope.md R7, the configuration record of 00_scope.md R8 and 10_state.md R55 to R58,
its defaults, and the free values. Which configurations are refused is Sys2Proof/Machine/ConfigCheck.lean. -/

namespace Sys2Proof

/-! Constants the document fixes (00_scope.md R7). -/

/-- The constants of 00_scope.md R7, with the document's values. They are part of the configuration because the
document's literals are unaudited (92_eei_decisions.md part H; log 22). -/
structure Constants where
  /-- N_PANEL. -/
  nPanel         : Nat := 2
  /-- N_LAYER. -/
  nLayer         : Nat := 6
  /-- N_CURSOR. -/
  nCursor        : Nat := 2
  /-- RATE_SPLIT, in Hz: the high branch is taken above it. -/
  rateSplit      : Nat := 30000000
  /-- Q_HI, in Hz. -/
  quantumHi      : Nat := 3000000
  /-- Q_LO, in Hz. -/
  quantumLo      : Nat := 1000000
  /-- FRAC_MUL. -/
  fracMul        : Nat := 0xFFFFFF
  /-- FRAC_DIV, the same in both branches (90_conflicts.md C1). -/
  fracDivisor    : Nat := 1000000
  /-- PRE_PREDIV. -/
  prePrediv      : Byte := 1
  /-- N_POST, the number of real post-PLL table entries. -/
  nPost          : Nat := 6
  /-- POST_THR[0..5], in Hz, ascending. -/
  postThr        : Vector Word 6 := #v[25200000, 27000000, 33750000, 49000000, 241700000, 297000000]
  /-- POST_THR[6], the sentinel's threshold, which is never selected (90_conflicts.md C3). -/
  postSentinel   : Word := 0
  /-- POLL_INTERVAL in milliseconds. It enters the model only through the default of N_POLL_MAX (40_pll.md R162). -/
  pollIntervalMs : Nat := 1
  /-- POLL_TIMEOUT in milliseconds. It enters the model only through the default of N_POLL_MAX (40_pll.md R162). -/
  pollTimeoutMs  : Nat := 100
  /-- LOCK_BIT. -/
  lockBit        : Nat := 0
  /-- N_COEF_ENTRY. -/
  nCoefEntry     : Nat := 16
  /-- N_COEF_REG. -/
  nCoefReg       : Nat := 10
deriving DecidableEq, Repr

/-! Names and records. -/

/-- The register spaces (20_memory.md R70). -/
inductive Space
  | eng
  | tx
  | dc
deriving DecidableEq, Repr

/-- Channel orders of 42_colour.md R215. -/
inductive Swizzle
  | argb
  | abgr
  | rgba
  | bgra
deriving DecidableEq, Repr, Inhabited

/-- The kinds of layer plane slot that have a coefficient bank (10_state.md R53). -/
inductive PlaneKind
  | primary
  | overlay
deriving DecidableEq, Repr

/-- TX_W: an external-timing field is one byte or a low/high pair (41_timing.md R184). -/
inductive FieldWidth
  | byte
  | pair
deriving DecidableEq, Repr

/-- What "sync delay" means for an axis: the spec's default reading, the other one 92_eei_decisions.md D24 names, or
some other function of the mode, number `k` (93_implementation_defined.md U12; log 18). -/
inductive SyncDelay
  | totalMinusStart
  | startMinusDisplay
  | other (k : Nat)
deriving DecidableEq, Repr

/-- The four divider fields of a real post-PLL table entry (10_state.md R55); its threshold is a constant of R7. -/
structure PostRow where
  prediv    : Byte
  fbdiv     : Half
  postdiv   : Byte
  postdivEn : Byte
deriving DecidableEq, Repr, Inhabited

/-- One row of FMT_MAP (10_state.md R58), with its key (42_colour.md R212). -/
structure FmtRow where
  key       : Word
  code      : Byte
  swizzle   : Swizzle
  uvSwizzle : Bool
  isYuv     : Bool
deriving DecidableEq, Repr

/-- TX_W of the eight external-timing fields. -/
structure TxWidths where
  htotal    : FieldWidth := .pair
  hblank    : FieldWidth := .pair
  hdelay    : FieldWidth := .pair
  hduration : FieldWidth := .pair
  vtotal    : FieldWidth := .pair
  vblank    : FieldWidth := .byte
  vdelay    : FieldWidth := .byte
  vduration : FieldWidth := .byte
deriving DecidableEq, Repr

/-- Bit positions of the composite timing byte (41_timing.md R183). -/
structure TctlBits where
  enable    : Nat := 0
  interlace : Nat := 1
  hsync     : Nat := 2
  vsync     : Nat := 3
deriving DecidableEq, Repr

/-- DC_OFF of the four timing words (10_state.md R50), before PANEL_OFF is added. -/
structure DcOffsets where
  displayH     : Nat := 0x000
  displayHsync : Nat := 0x008
  displayV     : Nat := 0x010
  displayVsync : Nat := 0x018
deriving DecidableEq, Repr

/-- Positions of the fields of the timing words, and the constant written to "plus" (41_timing.md R193;
93_implementation_defined.md U11). -/
structure DcLayout where
  active    : Nat := 0
  total     : Nat := 16
  syncStart : Nat := 0
  syncEnd   : Nat := 15
  plus      : Nat := 30
  polarity  : Nat := 31
  plusValue : Bool := true
deriving DecidableEq, Repr

/-- Swizzle code numbers (42_colour.md R215). -/
structure SwizzleCodes where
  argb : BitVec 2 := 0
  abgr : BitVec 2 := 1
  rgba : BitVec 2 := 2
  bgra : BitVec 2 := 3
deriving DecidableEq, Repr

/-- The parameters of 00_scope.md R8. A field without a default value here is OPEN (92_eei_decisions.md part G).
A base is held as base / 4, so that no misaligned base can be written down (20_memory.md R77). -/
structure Config where
  consts      : Constants := {}
  engBaseWord : Nat
  txBaseWord  : Nat
  dcBaseWord  : Nat
  /-- TX_OFF where it differs from its default TX_OFF(n) = n: pairs (n, TX_OFF(n)). -/
  txOff       : List (Nat × Nat) := []
  prePdMask   : Byte := 0x01
  postPdMask  : Byte := 0x01
  postEnShift : Nat := 1
  refclkShift : Nat := 4
  refclkSel   : Byte
  divsetHi    : Word
  divsetLo    : Word
  postTab     : Vector PostRow 6
  /-- N_POLL_MAX; by default reads at 0, 1, ..., 100 ms (40_pll.md R162). -/
  nPollMax    : Nat := consts.pollTimeoutMs / consts.pollIntervalMs + 1
  txWidth     : TxWidths := {}
  /-- The readings of HDELAY and VDELAY (41_timing.md R182). -/
  hdelay      : SyncDelay := .totalMinusStart
  vdelay      : SyncDelay := .totalMinusStart
  tctl        : TctlBits := {}
  dcOff       : DcOffsets := {}
  panelOff    : Vector Nat 2 := #v[0, 4]
  dcLayout    : DcLayout := {}
  fmtMap      : List FmtRow
  swizzleCode : SwizzleCodes := {}
  y2r601      : Vector Word 16
  y2r709      : Vector Word 16
  y2r2020     : Vector Word 16
  /-- R2R_TAB, which no rule reads (10_state.md R57). -/
  r2r         : Vector Word 9
  coefPrimary : Vector Nat 10 := #v[0x100, 0x110, 0x120, 0x130, 0x140, 0x150, 0x160, 0x170, 0x180, 0x190]
  coefOverlay : Vector Nat 10 := #v[0x200, 0x210, 0x220, 0x230, 0x240, 0x250, 0x260, 0x270, 0x280, 0x290]
  planeOff    : Vector Nat 6 := #v[0x00, 0x04, 0x00, 0x04, 0x08, 0x0C]
deriving DecidableEq, Repr

/-! Default format keys (42_colour.md R212). -/

def keyNv12 : Word := 0x3231564E
def keyNv21 : Word := 0x3132564E
def keyYvyu : Word := 0x55595659
def keyYvu420 : Word := 0x32315659
def keyArgb8888 : Word := 0x34325241

/-! OPEN parameters of the machine after reset: constants with no body (log 3). -/

opaque Config.openEngBaseWord : Nat
opaque Config.openTxBaseWord : Nat
opaque Config.openDcBaseWord : Nat
opaque Config.openRefclkSel : Byte
opaque Config.openDivsetHi : Word
opaque Config.openDivsetLo : Word
opaque Config.openPostRow : Nat → PostRow
/-- The number of FORMAT_NV12 (42_colour.md R213). -/
opaque Config.openCodeNv12 : Byte
opaque Config.openCodeYvyu : Byte
opaque Config.openCodeYvu420 : Byte
opaque Config.openCodeArgb8888 : Byte
opaque Config.openSwizzleNv12 : Swizzle
opaque Config.openSwizzleNv21 : Swizzle
opaque Config.openSwizzleYvyu : Swizzle
opaque Config.openSwizzleYvu420 : Swizzle
opaque Config.openUvYvu420 : Bool
/-- Y2R_TAB entries: the number of the encoding (0 = 601, 1 = 709, 2 = 2020), then the index. -/
opaque Config.openY2r : Nat → Nat → Word
opaque Config.openR2r : Nat → Word

/-- FMT_MAP with the rows the source fixes (42_colour.md R213); a cell marked "-" there is an opaque constant. -/
def Config.sourceFmtMap : List FmtRow :=
  [ { key := keyNv12, code := Config.openCodeNv12, swizzle := Config.openSwizzleNv12, uvSwizzle := false, isYuv := true },
    { key := keyNv21, code := Config.openCodeNv12, swizzle := Config.openSwizzleNv21, uvSwizzle := true, isYuv := true },
    { key := keyYvyu, code := Config.openCodeYvyu, swizzle := Config.openSwizzleYvyu, uvSwizzle := true, isYuv := true },
    { key := keyYvu420, code := Config.openCodeYvu420, swizzle := Config.openSwizzleYvu420,
      uvSwizzle := Config.openUvYvu420, isYuv := true },
    { key := keyArgb8888, code := Config.openCodeArgb8888, swizzle := .argb, uvSwizzle := false, isYuv := false } ]

/-- Sixteen entries of the OPEN table of encoding `e`. -/
def Config.openTable (e : Nat) : Vector Word 16 :=
  #v[Config.openY2r e 0, Config.openY2r e 1, Config.openY2r e 2, Config.openY2r e 3,
     Config.openY2r e 4, Config.openY2r e 5, Config.openY2r e 6, Config.openY2r e 7,
     Config.openY2r e 8, Config.openY2r e 9, Config.openY2r e 10, Config.openY2r e 11,
     Config.openY2r e 12, Config.openY2r e 13, Config.openY2r e 14, Config.openY2r e 15]

/-- The configuration of the machine after reset: every default of 00_scope.md R8, an opaque constant where the spec
says OPEN; the constants of R7 have the document's values. -/
def Config.machine : Config where
  engBaseWord := Config.openEngBaseWord
  txBaseWord := Config.openTxBaseWord
  dcBaseWord := Config.openDcBaseWord
  refclkSel := Config.openRefclkSel
  divsetHi := Config.openDivsetHi
  divsetLo := Config.openDivsetLo
  postTab := #v[Config.openPostRow 0, Config.openPostRow 1, Config.openPostRow 2,
                Config.openPostRow 3, Config.openPostRow 4, Config.openPostRow 5]
  fmtMap := Config.sourceFmtMap
  y2r601 := Config.openTable 0
  y2r709 := Config.openTable 1
  y2r2020 := Config.openTable 2
  r2r := #v[Config.openR2r 0, Config.openR2r 1, Config.openR2r 2, Config.openR2r 3, Config.openR2r 4,
            Config.openR2r 5, Config.openR2r 6, Config.openR2r 7, Config.openR2r 8]

/-! Free values: constants with no body, each applied to a plain counter of the state or to the operands it depends on.
-/

/-- What POLLCNT reads as when the count `n` does not fit its 16 bits; nothing is known of it (log 10). -/
opaque Config.pollcntBeyond : (n : Nat) → Half

/-- Sync delay as function number `k` of the mode, whose values are given in the order HDISPLAY, HSYNC_START, HSYNC_END,
HTOTAL, VDISPLAY, VSYNC_START, VSYNC_END, VTOTAL, FLAGS; nothing is known of it (log 18). -/
opaque Config.otherSyncDelay : (k : Nat) → (horizontal vertical : Vector Half 4) → (flags : BitVec 3) → Half

/-- The payload of the lock read number `k` (10_state.md R60); nothing is known of it (log 7). -/
opaque Config.lockDraw : (k : Nat) → Byte

/-- What the register at byte offset `off` of a foreign block holds when nothing has written it since the reset number
`epoch` (70_reset_and_hazards.md R291); nothing is known of it (log 6). -/
opaque Config.unspecifiedWord : (epoch : Nat) → (space : Space) → (off : Nat) → Word

/-- The contents of the RGB-to-RGB bank of a layer slot after its draw number `k` (42_colour.md R226); nothing is known
of them, their number included (log 13). -/
opaque Config.rgbBankDraw : (slot : Nat) → (k : Nat) → List Word

end Sys2Proof
end

