-- ==== Sys2Proof/Syntax.lean ====
section
/-! DEFINITION. The commands, one constructor per row of spec/opcode_table.json (30_encoding.md R102). -/

namespace Sys2Proof

/-- A command (00_scope.md R3). SEL is an 8-bit number with no scaling (30_encoding.md R100); its range is checked by
`Instr.wf` and by the commands' meanings (30_encoding.md R103, R104). -/
inductive Instr
  /-- NOP, 43_system.md R241. -/
  | nop
  /-- PLL.SOLVEPRE, 40_pll.md R131. -/
  | pllSolvepre
  /-- PLL.SOLVEPOST, 40_pll.md R139. -/
  | pllSolvepost
  /-- PLL.PROGRAM, 40_pll.md R144. -/
  | pllProgram
  /-- PLL.WAITLOCK, 40_pll.md R159. -/
  | pllWaitlock
  /-- PLL.CONFIGURE, 40_pll.md R165. -/
  | pllConfigure
  /-- VT.TX, 41_timing.md R181. -/
  | vtTx
  /-- VT.DC of a panel, 41_timing.md R192. -/
  | vtDc (panel : Byte)
  /-- CSC.MAPFMT, 42_colour.md R211. -/
  | cscMapfmt
  /-- CSC.LOAD of a layer slot, 42_colour.md R218. -/
  | cscLoad (slot : Byte)
  /-- CLRERR, 43_system.md R243. -/
  | clrerr
deriving DecidableEq, Repr

end Sys2Proof
end

