-- ==== Sys2Proof/Machine/State.lean ====
section
/-! DEFINITION. The state of the machine (10_state.md R20) as plain data, the reasons a step can stop, and the state
after reset (70_reset_and_hazards.md R290 to R292). -/

namespace Sys2Proof.Machine

/-! Engine-window registers with fields. -/

/-- STATUS (10_state.md R23). Bit 3 and bits above 7 are reserved and read 0, so they are not stored. -/
structure Status where
  busy       : Bool
  done       : Bool
  fail       : Bool
  oor        : Bool
  fracOvf    : Bool
  preLocked  : Bool
  postLocked : Bool
deriving DecidableEq, Repr

/-- ERR, one sticky bit per fault cause (10_state.md R24). -/
structure Err where
  illegalCmd      : Bool
  cmdBusy         : Bool
  badOperand      : Bool
  badFormat       : Bool
  lockTimeoutPre  : Bool
  lockTimeoutPost : Bool
deriving DecidableEq, Repr

/-- The pre-PLL result registers (10_state.md R28). PRE_FRAC is its two fields; bits 30:26 read 0. -/
structure PreResult where
  prediv  : Byte
  fbdiv   : Half
  fracEn  : Bool
  fracDiv : BitVec 26
  divset  : Word
deriving DecidableEq, Repr

/-- The post-PLL result registers (10_state.md R29). -/
structure PostResult where
  sel       : BitVec 3
  thresh    : Word
  prediv    : Byte
  fbdiv     : Half
  postdiv   : Byte
  postdivEn : Byte
deriving DecidableEq, Repr

/-- The nine MODE registers (10_state.md R30, R31). -/
structure Mode where
  hdisplay   : Half
  hsyncStart : Half
  hsyncEnd   : Half
  htotal     : Half
  vdisplay   : Half
  vsyncStart : Half
  vsyncEnd   : Half
  vtotal     : Half
  flags      : BitVec 3
deriving DecidableEq, Repr

/-- CSC_RESULT (10_state.md R33). Bit 14 is reserved and reads 0, so it is not stored. -/
structure CscResult where
  fmtCode   : Byte
  swizzle   : BitVec 2
  uvSwizzle : Bool
  isYuv     : Bool
  tableSel  : BitVec 2
  valid     : Bool
deriving DecidableEq, Repr

/-- The sequencer latches L_OP, L_SEL, L_RATE, L_MODE, L_FMT, L_ENC (10_state.md R35). -/
structure Latches where
  op   : Byte
  sel  : Byte
  rate : Word
  mode : Mode
  fmt  : Word
  enc  : Word
deriving DecidableEq, Repr

/-! Register spaces and the event history. -/

/-- One register of a space: its byte offset from the base of the space, and its 32-bit word (20_memory.md R74, R75). -/
abbrev RegCell := Nat × Word

/-- The registers of a space whose contents are known, by strictly rising byte offset. A register not listed holds an
unspecified value (70_reset_and_hazards.md R291). -/
abbrev RegSpace := List RegCell

inductive AccessKind
  | read
  | write
deriving DecidableEq, Repr

/-- One engine access (20_memory.md R88). -/
structure Event where
  step    : Byte
  kind    : AccessKind
  space   : Space
  address : Nat
  value   : Word
deriving DecidableEq, Repr

/-! What happens outside the engine. -/

/-- The agents that can move: the sequencer, or everything outside it (00_scope.md R11; log 4). -/
inductive Agent
  | sequencer
  | outside
deriving DecidableEq, Repr

/-- A statement of a host script (30_encoding.md R120); CMD is a WR to index 0. -/
inductive HostOp
  | wr (index : Nat) (value : Word)
  | rd (index : Nat)
  | wait
deriving DecidableEq, Repr

/-- What an agent outside the engine does next. Register numbers of the foreign writes are word indices: the byte offset
is 4 times the number, so only whole aligned registers can be named (20_memory.md R74). -/
inductive Input
  /-- The host performs a script statement. -/
  | host (op : HostOp)
  /-- The platform asserts reset (70_reset_and_hazards.md R290). -/
  | reset
  /-- Another component writes a register of the HDMI block (20_memory.md R70). -/
  | foreignTx (index : Nat) (value : Word)
  /-- Another component writes a register of the display controller (20_memory.md R70). -/
  | foreignDc (index : Nat) (value : Word)
deriving DecidableEq, Repr

/-- The state of the machine. -/
structure State where
  /-- The configuration; no step writes it (log 2). -/
  cfg         : Config
  /-- CMD (10_state.md R22). -/
  cmd         : Word
  /-- STATUS (10_state.md R23). -/
  status      : Status
  /-- ERR (10_state.md R24). -/
  err         : Err
  /-- SEQ.STEP, the program counter (10_state.md R25). -/
  seqStep     : Byte
  /-- SEQ.FAULT_STEP (10_state.md R25). -/
  faultStep   : Byte
  /-- The count behind POLLCNT, of which the host reads 16 bits (10_state.md R26; log 10). -/
  pollcnt     : Nat
  /-- RATE (10_state.md R27). -/
  rate        : Word
  /-- PRE_PREDIV, PRE_FBDIV, PRE_FRAC, PRE_DIVSET (10_state.md R28). -/
  pre         : PreResult
  /-- POST_SEL to POST_POSTDIV_EN (10_state.md R29). -/
  post        : PostResult
  /-- MODE_HDISPLAY to MODE_FLAGS (10_state.md R30, R31). -/
  mode        : Mode
  /-- CSC_FORMAT (10_state.md R32). -/
  cscFormat   : Word
  /-- CSC_ENCODING (10_state.md R32). -/
  cscEncoding : Word
  /-- CSC_RESULT (10_state.md R33). -/
  cscResult   : CscResult
  /-- The sequencer latches (10_state.md R35). -/
  latch       : Latches
  /-- The HDMI-block registers (10_state.md R40). -/
  tx          : RegSpace
  /-- The display-controller registers (10_state.md R50, R52). -/
  dc          : RegSpace
  /-- For each layer slot, which draw its RGB-to-RGB bank holds (42_colour.md R226; log 13). -/
  rgbBank     : List Nat
  /-- The lock oracle's next answers, first read first (10_state.md R60; log 7). -/
  lockAnswers : List Byte
  /-- The number of lock reads answered by a free value (log 7). -/
  lockDraws   : Nat
  /-- The number of resets after which the foreign blocks were drawn afresh (70_reset_and_hazards.md R291; log 8). -/
  epoch       : Nat
  /-- The event history, oldest first (20_memory.md R88). -/
  history     : List Event
  /-- What the host's reads returned, oldest first: index and value (log 16). -/
  observed    : List (Nat × Word)
  /-- What the outside does next, in order (log 4). -/
  inputs      : List Input
  /-- Which agent moves next; when empty, the sequencer moves while BUSY and the outside otherwise (log 4). -/
  turns       : List Agent
deriving DecidableEq, Repr

/-- The reasons the machine stops with a fault. -/
inductive Fault
  /-- Raised by the sequencer when BUSY = 1 and STEP is no step of the latched command: no rule gives it a transition
  (30_encoding.md R107). No run from reset reaches it. Safe: the model stops where the spec says nothing. -/
  | sequencerStuck
deriving DecidableEq, Repr

/-- The reasons the model refuses a step. -/
inductive Refusal
  /-- Raised by the dispatcher for a command without a meaning. Safe. -/
  | notModelled (mnemonic : String)
  /-- Raised by every step under a configuration the spec says the model refuses (10_state.md R51, 20_memory.md R77,
  40_pll.md R155, 93_implementation_defined.md U8). Safe. -/
  | invalidConfiguration
  /-- Raised by a foreign write to a register the running command touches, which EXCLUSIVE_WINDOW rules out
  (70_reset_and_hazards.md R310, 93_implementation_defined.md U21). Safe. -/
  | exclusiveWindow
deriving DecidableEq, Repr

/-! Reset values (70_reset_and_hazards.md R292). -/

def Status.reset : Status :=
  { busy := false, done := false, fail := false, oor := false, fracOvf := false, preLocked := false, postLocked := false }

def Err.reset : Err :=
  { illegalCmd := false, cmdBusy := false, badOperand := false, badFormat := false, lockTimeoutPre := false,
    lockTimeoutPost := false }

def PreResult.reset : PreResult :=
  { prediv := 0, fbdiv := 0, fracEn := false, fracDiv := 0, divset := 0 }

def PostResult.reset : PostResult :=
  { sel := 0, thresh := 0, prediv := 0, fbdiv := 0, postdiv := 0, postdivEn := 0 }

def Mode.reset : Mode :=
  { hdisplay := 0, hsyncStart := 0, hsyncEnd := 0, htotal := 0, vdisplay := 0, vsyncStart := 0, vsyncEnd := 0,
    vtotal := 0, flags := 0 }

def CscResult.reset : CscResult :=
  { fmtCode := 0, swizzle := 0, uvSwizzle := false, isYuv := false, tableSel := 0, valid := false }

def Latches.reset : Latches :=
  { op := 0, sel := 0, rate := 0, mode := Mode.reset, fmt := 0, enc := 0 }

/-- The machine right after reset. The engine is all 0 (R290); no register of the foreign blocks has a known value
(R291), so none is listed. The fields that are the model's own start empty (log 24). -/
def State.reset : State where
  cfg := Config.machine
  cmd := 0
  status := Status.reset
  err := Err.reset
  seqStep := 0
  faultStep := 0
  pollcnt := 0
  rate := 0
  pre := PreResult.reset
  post := PostResult.reset
  mode := Mode.reset
  cscFormat := 0
  cscEncoding := 0
  cscResult := CscResult.reset
  latch := Latches.reset
  tx := []
  dc := []
  rgbBank := [0, 0, 0, 0, 0, 0]
  lockAnswers := []
  lockDraws := 0
  epoch := 0
  history := []
  observed := []
  inputs := []
  turns := []

end Sys2Proof.Machine
end

