-- ==== Sys2Proof/Machine/Operands.lean ====
section
/-! DEFINITION. Where a step finds its operands and its registers: logical register numbers and addresses (10_state.md
R40, R50 to R53), the input snapshot (10_state.md R35), table lookups (10_state.md R55 to R58), parts of values
(20_memory.md R76). -/

namespace Sys2Proof.Machine

/-! Parts of a value (00_scope.md R9, 20_memory.md R76). -/

/-- Bits 7:0 of a 16-bit value. -/
def lowByte (v : Half) : Byte := v.extractLsb' 0 8

/-- Bits 15:8 of a 16-bit value. -/
def highByte (v : Half) : Byte := v.extractLsb' 8 8

/-- Byte `k` of a word, `v[8k+7:8k]`. -/
def wordByte (v : Word) (k : Nat) : Byte := v.extractLsb' (8 * k) 8

/-- A one-bit number as a word of width `w`. -/
def bit (w : Nat) (b : Bool) : BitVec w := if b then 1 else 0

/-! Logical register numbers of the HDMI block (10_state.md R40). -/

abbrev regPrePllCtrl : Nat := 0x00
abbrev regPrePllPrediv : Nat := 0x01
abbrev regPrePllFbdivL : Nat := 0x02
abbrev regPrePllFbdivH : Nat := 0x03
abbrev regPrePllFracCtrl : Nat := 0x04
abbrev regPrePllFracL : Nat := 0x05
abbrev regPrePllFracM : Nat := 0x06
abbrev regPrePllFracH : Nat := 0x07
abbrev regPrePllDivset0 : Nat := 0x08
abbrev regPrePllDivset1 : Nat := 0x09
abbrev regPrePllDivset2 : Nat := 0x0A
abbrev regPrePllDivset3 : Nat := 0x0B
abbrev regPostPllCtrl : Nat := 0x0C
abbrev regPostPllPrediv : Nat := 0x0D
abbrev regPostPllFbdivL : Nat := 0x0E
abbrev regPostPllFbdivH : Nat := 0x0F
abbrev regPostPllPostdiv : Nat := 0x10
abbrev regPrePllLock : Nat := 0x11
abbrev regPostPllLock : Nat := 0x12
abbrev regVideoTimingCtl : Nat := 0x20
abbrev regExtHtotalL : Nat := 0x21
abbrev regExtVduration : Nat := 0x2D
abbrev regExtVblankH : Nat := 0x1D
abbrev regExtVdelayH : Nat := 0x1E
abbrev regExtVdurationH : Nat := 0x1F

/-- The registers of a PLL command (10_state.md R40). -/
def pllRegisters : List Nat :=
  [0x00, 0x01, 0x02, 0x03, 0x04, 0x05, 0x06, 0x07, 0x08, 0x09, 0x0A, 0x0B, 0x0C, 0x0D, 0x0E, 0x0F, 0x10, 0x11, 0x12]

/-- The steps of one external-timing field: its low register, and its high register when it is a pair (41_timing.md
R184, R186). -/
def fieldSteps (width : FieldWidth) (low high : Byte) : List Byte :=
  match width with
  | .byte => [low]
  | .pair => [low, high]

/-- The steps of VT.TX. With the default TX_W these are 0x20 to 0x2D; TX_W decides the list (00_scope.md R8). The high
parts of the vertical fields, which the default writes nowhere, take the numbers 0x1D to 0x1F (log 11). -/
def timingSteps (c : Config) : List Byte :=
  0x20 :: (fieldSteps c.txWidth.htotal 0x21 0x22 ++ fieldSteps c.txWidth.hblank 0x23 0x24
    ++ fieldSteps c.txWidth.hdelay 0x25 0x26 ++ fieldSteps c.txWidth.hduration 0x27 0x28
    ++ fieldSteps c.txWidth.vtotal 0x29 0x2A ++ fieldSteps c.txWidth.vblank 0x2B 0x1D
    ++ fieldSteps c.txWidth.vdelay 0x2C 0x1E ++ fieldSteps c.txWidth.vduration 0x2D 0x1F)

/-- The numbers of every logical register the HDMI block has (10_state.md R40). For VT.TX the step number is the register
number (30_encoding.md R110), so TX_W decides which registers there are. -/
def txRegisters (c : Config) : List Nat := pllRegisters ++ (timingSteps c).map BitVec.toNat

/-- The lock-status registers, which hold no value of their own (10_state.md R45, R60). -/
def isLockRegister (n : Nat) : Bool := n == regPrePllLock || n == regPostPllLock

/-! Addresses. -/

/-- TX_OFF(n). -/
def txOffset (c : Config) (n : Nat) : Nat := (c.txOff.lookup n).getD n

/-- The byte offset of logical register `n` from TX_BASE, 4*TX_OFF(n) (00_scope.md R10). -/
def txByteOffset (c : Config) (n : Nat) : Nat := 4 * txOffset c n

/-- PANEL_OFF(p). A panel number is below 2 wherever a command reaches this (30_encoding.md R103). -/
def panelOffset (c : Config) (p : Nat) : Nat := c.panelOff[p]?.getD 0

/-- The byte offset from DC_BASE of timing word `k` of panel `p`, in the order H, HSYNC, V, VSYNC (41_timing.md R195). -/
def timingOffset (c : Config) (k p : Nat) : Nat :=
  (match k with
   | 0 => c.dcOff.displayH
   | 1 => c.dcOff.displayHsync
   | 2 => c.dcOff.displayV
   | _ => c.dcOff.displayVsync) + panelOffset c p

/-- The kind of layer slot `s` (10_state.md R53). -/
def slotKind (s : Nat) : PlaneKind := if s < 2 then .primary else .overlay

/-- COEF_OFF(kind, k). A register number is below 10 wherever a step reaches this. -/
def coefKindOffset (c : Config) (kind : PlaneKind) (k : Nat) : Nat :=
  match kind with
  | .primary => c.coefPrimary[k]?.getD 0
  | .overlay => c.coefOverlay[k]?.getD 0

/-- PLANE_OFF(s). A slot is below 6 wherever a command reaches this (30_encoding.md R103). -/
def planeOffset (c : Config) (s : Nat) : Nat := c.planeOff[s]?.getD 0

/-- The byte offset from DC_BASE of COEF[s][k] (10_state.md R52). -/
def coefOffset (c : Config) (s k : Nat) : Nat := coefKindOffset c (slotKind s) k + planeOffset c s

/-- The byte address of offset `off` of a space (20_memory.md R70). -/
def byteAddress (c : Config) (space : Space) (off : Nat) : Nat :=
  (match space with
   | .eng => 4 * c.engBaseWord
   | .tx => 4 * c.txBaseWord
   | .dc => 4 * c.dcBaseWord) + off

/-! Mode and mode flags (10_state.md R31). -/

/-- PHSYNC. -/
def Mode.phsync (m : Mode) : Bool := m.flags.getLsbD 0
/-- PVSYNC. -/
def Mode.pvsync (m : Mode) : Bool := m.flags.getLsbD 1
/-- INTERLACE. -/
def Mode.interlace (m : Mode) : Bool := m.flags.getLsbD 2

/-! The input snapshot and the tables. -/

/-- The latches filled at the acceptance of command word `w` (10_state.md R35, 30_encoding.md R105). -/
def latchInputs (w : Word) (s : State) : Latches :=
  { op := w.extractLsb' 0 8, sel := w.extractLsb' 8 8, rate := s.rate, mode := s.mode, fmt := s.cscFormat,
    enc := s.cscEncoding }

/-- FMT_MAP(key): the row of a format key, if there is one (10_state.md R58). -/
def lookupFormat (rows : List FmtRow) (key : Word) : Option FmtRow :=
  match rows with
  | [] => none
  | row :: rest => if row.key = key then some row else lookupFormat rest key

/-- The number of a channel order (42_colour.md R215). -/
def swizzleNumber (c : Config) (z : Swizzle) : BitVec 2 :=
  match z with
  | .argb => c.swizzleCode.argb
  | .abgr => c.swizzleCode.abgr
  | .rgba => c.swizzleCode.rgba
  | .bgra => c.swizzleCode.bgra

/-- TABLE_SEL for a format and an encoding: 601 unless the encoding is recognised, 3 when the format is not YUV
(42_colour.md R214, R216). -/
def tableSelect (isYuv : Bool) (enc : Word) : BitVec 2 :=
  if isYuv then (if enc = 1 then 1 else if enc = 2 then 2 else 0) else 3

/-- Y2R_TAB by TABLE_SEL; none for 3, no table chosen (42_colour.md R216). -/
def y2rTable (c : Config) (sel : BitVec 2) : Option (Vector Word 16) :=
  if sel = 0 then some c.y2r601
  else if sel = 1 then some c.y2r709
  else if sel = 2 then some c.y2r2020
  else none

end Sys2Proof.Machine
end

