-- ==== Sys2Proof/Machine/ConfigCheck.lean ====
section
/-! DEFINITION. Which configurations the model refuses (10_state.md R51, R53, 20_memory.md R77, 40_pll.md R155,
93_implementation_defined.md U8, 92_eei_decisions.md D36; log 12, log 22). -/

namespace Sys2Proof.Machine

/-- No number occurs twice. -/
def allDistinct : List Nat → Bool
  | [] => true
  | a :: rest => !(rest.contains a) && allDistinct rest

/-- The distinct members of a list. -/
def distinctMembers : List Nat → List Nat
  | [] => []
  | a :: rest => if rest.contains a then distinctMembers rest else a :: distinctMembers rest

/-- The masks with one bit set. -/
def oneHotBytes : List Byte := [0x01, 0x02, 0x04, 0x08, 0x10, 0x20, 0x40, 0x80]

/-- The byte offset of every timing word of both panels (10_state.md R50, R51). -/
def timingOffsets (c : Config) : List Nat :=
  [timingOffset c 0 0, timingOffset c 1 0, timingOffset c 2 0, timingOffset c 3 0,
   timingOffset c 0 1, timingOffset c 1 1, timingOffset c 2 1, timingOffset c 3 1]

/-- The byte offset of every coefficient register of slot `s` (10_state.md R52). -/
def bankOffsets (c : Config) (s : Nat) : List Nat :=
  [coefOffset c s 0, coefOffset c s 1, coefOffset c s 2, coefOffset c s 3, coefOffset c s 4,
   coefOffset c s 5, coefOffset c s 6, coefOffset c s 7, coefOffset c s 8, coefOffset c s 9]

/-- The byte offset of every display-controller register the engine writes (20_memory.md R72). -/
def dcOffsets (c : Config) : List Nat :=
  timingOffsets c ++ bankOffsets c 0 ++ bankOffsets c 1 ++ bankOffsets c 2 ++ bankOffsets c 3 ++ bankOffsets c 4
    ++ bankOffsets c 5

/-- The byte offset of every HDMI-block register the engine uses (20_memory.md R72). -/
def txOffsets (c : Config) : List Nat := (txRegisters c).map (txByteOffset c)

/-- N_POLL_MAX is at least 1 (00_scope.md R8, 40_pll.md R162). -/
def pollBoundOk (c : Config) : Bool := decide (1 ≤ c.nPollMax)

/-- The counts are those the tables and the step map are laid out for, the thresholds ascend, no divisor is 0
(00_scope.md R7, R9), LOCK_BIT is a bit of a payload, and every fractional value fits PRE_FRAC (10_state.md R28;
log 22). -/
def constantsOk (k : Constants) : Bool :=
  k.nPanel == 2 && k.nLayer == 6 && k.nCursor == 2 && k.nPost == 6 && k.nCoefEntry == 16 && k.nCoefReg == 10
    && decide (k.postThr[0] < k.postThr[1]) && decide (k.postThr[1] < k.postThr[2]) && decide (k.postThr[2] < k.postThr[3])
    && decide (k.postThr[3] < k.postThr[4]) && decide (k.postThr[4] < k.postThr[5])
    && decide (0 < k.quantumHi) && decide (0 < k.quantumLo) && decide (0 < k.fracDivisor) && decide (k.lockBit < 8)
    && decide ((k.quantumHi - 1) * k.fracMul / k.fracDivisor < 2 ^ 26)
    && decide ((k.quantumLo - 1) * k.fracMul / k.fracDivisor < 2 ^ 26)

/-- Two bit ranges of a word do not meet. -/
def apart (lo₁ width₁ lo₂ width₂ : Nat) : Bool := decide (lo₁ + width₁ ≤ lo₂) || decide (lo₂ + width₂ ≤ lo₁)

/-- The power-down masks are one-hot (00_scope.md R8), and the fields of POST_PLL_CTRL do not overlap, in the byte or
above it (40_pll.md R155). -/
def pllFieldsOk (c : Config) : Bool :=
  oneHotBytes.contains c.prePdMask && oneHotBytes.contains c.postPdMask
    && decide ((0x07#8 <<< c.postEnShift) &&& c.postPdMask = 0)
    && decide ((0x0F#8 <<< c.refclkShift) &&& c.postPdMask = 0)
    && apart c.postEnShift 3 c.refclkShift 4

/-- The HDMI-block registers have distinct offsets (93_implementation_defined.md U8), and the composite byte's four bits
are distinct bits of a byte (log 12). -/
def txMapOk (c : Config) : Bool :=
  allDistinct (txOffsets c)
    && allDistinct [c.tctl.enable, c.tctl.interlace, c.tctl.hsync, c.tctl.vsync]
    && [c.tctl.enable, c.tctl.interlace, c.tctl.hsync, c.tctl.vsync].all (fun p => decide (p < 8))

/-- The fields of the timing words lie inside the word and do not overlap (93_implementation_defined.md U8; log 12). -/
def dcLayoutOk (l : DcLayout) : Bool :=
  decide (l.active + 15 ≤ 32) && decide (l.total + 15 ≤ 32) && apart l.active 15 l.total 15
    && decide (l.syncStart + 15 ≤ 32) && decide (l.syncEnd + 15 ≤ 32) && decide (l.plus < 32) && decide (l.polarity < 32)
    && apart l.syncStart 15 l.syncEnd 15 && apart l.syncStart 15 l.plus 1 && apart l.syncStart 15 l.polarity 1
    && apart l.syncEnd 15 l.plus 1 && apart l.syncEnd 15 l.polarity 1 && apart l.plus 1 l.polarity 1

/-- Every display-controller offset is a multiple of 4 and no two registers collide (10_state.md R51, 20_memory.md R77,
92_eei_decisions.md D36), and PLANE_OFF keeps the constraints of 10_state.md R53. -/
def dcMapOk (c : Config) : Bool :=
  (dcOffsets c).all (fun o => o % 4 == 0) && allDistinct (dcOffsets c) && dcLayoutOk c.dcLayout
    && planeOffset c 0 == 0 && planeOffset c 1 == 4 && decide ((distinctMembers c.planeOff.toList).length ≤ 4)

/-- The four swizzle numbers are pairwise distinct (42_colour.md R215). -/
def swizzlesOk (c : Config) : Bool :=
  allDistinct [c.swizzleCode.argb.toNat, c.swizzleCode.abgr.toNat, c.swizzleCode.rgba.toNat, c.swizzleCode.bgra.toNat]

/-- The configuration is one the spec gives a meaning; a step under any other is refused. -/
def configValid (c : Config) : Bool :=
  pollBoundOk c && constantsOk c.consts && pllFieldsOk c && txMapOk c && dcMapOk c && swizzlesOk c

end Sys2Proof.Machine
end

