-- ==== Sys2Proof/WellFormed.lean ====
section
/-! DEFINITION. Operand ranges (30_encoding.md R103). A command outside them still decodes: issuing it raises BadOperand
(60_exceptions.md R253). -/

namespace Sys2Proof

/-- The operand is in the range of 30_encoding.md R103. -/
def Instr.wf : Instr → Bool
  | .vtDc panel => decide (panel.toNat < ({} : Constants).nPanel)
  | .cscLoad slot => decide (slot.toNat < ({} : Constants).nLayer)
  | .nop | .pllSolvepre | .pllSolvepost | .pllProgram | .pllWaitlock | .pllConfigure
  | .vtTx | .cscMapfmt | .clrerr => true

end Sys2Proof
end

