-- ==== Sys2Proof/Decode.lean ====
section
/-! DEFINITION. The command word (30_encoding.md R100 to R103, R111, R112): a decoder total on all 2^32 words, and the
encoder of R101. A command is one whole 32-bit register write, so there are no bytes to order (20_memory.md R75). -/

namespace Sys2Proof

/-! Fields of format C (30_encoding.md R100). -/

/-- OP, bits 7:0. -/
def fieldOp (w : Word) : Byte := w.extractLsb' 0 8

/-- SEL, bits 15:8. -/
def fieldSel (w : Word) : Byte := w.extractLsb' 8 8

/-- ZERO, bits 31:16. -/
def fieldZero (w : Word) : Half := w.extractLsb' 16 16

/-- Why a word is illegal (30_encoding.md R111). -/
inductive Reject
  /-- ZERO is not 0. -/
  | zeroFieldSet
  /-- OP is not in the opcode map. -/
  | unknownOpcode
  /-- SEL is not 0 and the command takes no operand. -/
  | selNotTaken
deriving DecidableEq, Repr

/-- What the decoder answers. -/
inductive Decoded
  | instr (i : Instr)
  | reject (r : Reject)
deriving DecidableEq, Repr

/-- OP of a command (30_encoding.md R102). -/
def Instr.opcode : Instr → Byte
  | .nop => 0x00
  | .pllSolvepre => 0x01
  | .pllSolvepost => 0x02
  | .pllProgram => 0x03
  | .pllWaitlock => 0x04
  | .pllConfigure => 0x05
  | .vtTx => 0x10
  | .vtDc _ => 0x11
  | .cscMapfmt => 0x20
  | .cscLoad _ => 0x21
  | .clrerr => 0x7F

/-- SEL of a command: its operand, or 0 (30_encoding.md R102). -/
def Instr.sel : Instr → Byte
  | .vtDc panel => panel
  | .cscLoad slot => slot
  | .nop | .pllSolvepre | .pllSolvepost | .pllProgram | .pllWaitlock | .pllConfigure
  | .vtTx | .cscMapfmt | .clrerr => 0

/-- The commands that take no operand, by OP (30_encoding.md R102). -/
def plainCommand (op : Byte) : Option Instr :=
  if op = 0x00 then some .nop
  else if op = 0x01 then some .pllSolvepre
  else if op = 0x02 then some .pllSolvepost
  else if op = 0x03 then some .pllProgram
  else if op = 0x04 then some .pllWaitlock
  else if op = 0x05 then some .pllConfigure
  else if op = 0x10 then some .vtTx
  else if op = 0x20 then some .cscMapfmt
  else if op = 0x7F then some .clrerr
  else none

/-- The command its three fields stand for, or why they stand for none (30_encoding.md R104, R111). The operand's range
is not checked here: an out-of-range SEL of VT.DC or CSC.LOAD is a BadOperand of that command, not an illegal word. -/
def decodeFields (op sel : Byte) (zero : Half) : Decoded :=
  if zero ≠ 0 then .reject .zeroFieldSet
  else if op = 0x11 then .instr (.vtDc sel)
  else if op = 0x21 then .instr (.cscLoad sel)
  else match plainCommand op with
    | none => .reject .unknownOpcode
    | some i => if sel = 0 then .instr i else .reject .selNotTaken

/-- The command a word stands for, or why it is illegal (30_encoding.md R100, R111). -/
def decodeWord (w : Word) : Decoded := decodeFields (fieldOp w) (fieldSel w) (fieldZero w)

/-- The word of a command, OP | (SEL << 8) (30_encoding.md R101). -/
def encode (i : Instr) : Word :=
  i.opcode.setWidth 32 ||| (i.sel.setWidth 32 <<< 8)

/-- The command the decoder reads from a word whose bits are `w`, as spec/opcode_table.json numbers them. Every row has
32 bits and one word; a value that does not fit one word is refused. -/
def decodeTableWord (nbits w : Nat) : Option Instr :=
  let v := w % 2 ^ nbits
  if v < 2 ^ 32 then
    match decodeWord (BitVec.ofNat 32 v) with
    | .instr i => some i
    | .reject _ => none
  else none

end Sys2Proof
end

