-- ==== Sys2Proof/Machine/Flags.lean ====
section
/-! DEFINITION. STATUS, ERR, SEQ, PRE_FRAC and CSC_RESULT as words, and what sets and clears each flag (10_state.md R23,
R24, R28, R33). -/

namespace Sys2Proof.Machine

/-! Register views. -/

/-- STATUS as the host reads it (10_state.md R23). -/
def statusWord (t : Status) : Word :=
  bit 32 t.busy ||| (bit 32 t.done <<< 1) ||| (bit 32 t.fail <<< 2) ||| (bit 32 t.oor <<< 4) |||
    (bit 32 t.fracOvf <<< 5) ||| (bit 32 t.preLocked <<< 6) ||| (bit 32 t.postLocked <<< 7)

/-- ERR as the host reads it (10_state.md R24). -/
def errWord (e : Err) : Word :=
  bit 32 e.illegalCmd ||| (bit 32 e.cmdBusy <<< 1) ||| (bit 32 e.badOperand <<< 2) ||| (bit 32 e.badFormat <<< 3) |||
    (bit 32 e.lockTimeoutPre <<< 4) ||| (bit 32 e.lockTimeoutPost <<< 5)

/-- SEQ as the host reads it: STEP in bits 7:0, FAULT_STEP in bits 15:8 (10_state.md R25). -/
def seqWord (step faultStep : Byte) : Word := step.setWidth 32 ||| (faultStep.setWidth 32 <<< 8)

/-- POLLCNT as the host reads it: 16 bits, a free value when the count does not fit them (10_state.md R26; log 10). -/
def pollcntWord (n : Nat) : Half := if n < 2 ^ 16 then BitVec.ofNat 16 n else Config.pollcntBeyond n

/-- PRE_FRAC as the host reads it: FRAC_EN in bit 31, FRACDIV in bits 25:0 (10_state.md R28). -/
def fracWord (p : PreResult) : Word := (bit 32 p.fracEn <<< 31) ||| p.fracDiv.setWidth 32

/-- CSC_RESULT as the host reads it (10_state.md R33). -/
def cscResultWord (r : CscResult) : Word :=
  r.fmtCode.setWidth 32 ||| (r.swizzle.setWidth 32 <<< 8) ||| (bit 32 r.uvSwizzle <<< 10) |||
    (bit 32 r.isYuv <<< 11) ||| (r.tableSel.setWidth 32 <<< 12) ||| (bit 32 r.valid <<< 15)

/-! Conditions. -/

/-- FRAC_OVF: the fractional value exceeds 0xFFFFFF (40_pll.md R136). -/
def fracOverflows (fr : Nat) : Bool := decide (0xFFFFFF < fr)

/-- The lock bit of a payload (10_state.md R45). -/
def reportsLock (c : Config) (payload : Byte) : Bool := payload.getLsbD c.consts.lockBit

/-! What acceptance does to STATUS (30_encoding.md R105, 10_state.md R23). -/

/-- Every acceptance clears DONE and FAIL. -/
def Status.accepted (t : Status) : Status := { t with done := false, fail := false }

/-- PLL.SOLVEPRE and PLL.CONFIGURE clear FRAC_OVF. -/
def Status.clearFracOvf (t : Status) : Status := { t with fracOvf := false }

/-- PLL.SOLVEPOST and PLL.CONFIGURE clear OOR. -/
def Status.clearOor (t : Status) : Status := { t with oor := false }

/-- PLL.PROGRAM, PLL.WAITLOCK and PLL.CONFIGURE clear PRE_LOCKED and POST_LOCKED. -/
def Status.clearLocks (t : Status) : Status := { t with preLocked := false, postLocked := false }

/-! The fault causes (60_exceptions.md R250). -/

/-- The six causes. -/
inductive Cause
  | illegalCmd
  | cmdBusy
  | badOperand
  | badFormat
  | lockTimeoutPre
  | lockTimeoutPost
deriving DecidableEq, Repr

/-- The cause code, which is the bit number in ERR (60_exceptions.md R250). -/
def Cause.code : Cause → Nat
  | .illegalCmd => 0
  | .cmdBusy => 1
  | .badOperand => 2
  | .badFormat => 3
  | .lockTimeoutPre => 4
  | .lockTimeoutPost => 5

/-- The ERR bit of a cause. -/
def Err.has (e : Err) : Cause → Bool
  | .illegalCmd => e.illegalCmd
  | .cmdBusy => e.cmdBusy
  | .badOperand => e.badOperand
  | .badFormat => e.badFormat
  | .lockTimeoutPre => e.lockTimeoutPre
  | .lockTimeoutPost => e.lockTimeoutPost

/-- Set the ERR bit of a cause; the other bits stay (10_state.md R24). -/
def Err.set (e : Err) : Cause → Err
  | .illegalCmd => { e with illegalCmd := true }
  | .cmdBusy => { e with cmdBusy := true }
  | .badOperand => { e with badOperand := true }
  | .badFormat => { e with badFormat := true }
  | .lockTimeoutPre => { e with lockTimeoutPre := true }
  | .lockTimeoutPost => { e with lockTimeoutPost := true }

end Sys2Proof.Machine
end

