-- ==== Sys2Proof/Machine/StepMap.lean ====
section
/-! DEFINITION. The step list of each command and the successor of a step (30_encoding.md R106, R107, R110). -/

namespace Sys2Proof.Machine

/-- Steps 0x03 to 0x15, the register sequence of the PLLs (40_pll.md R145). -/
def programSteps : List Byte :=
  [0x03, 0x04, 0x05, 0x06, 0x07, 0x08, 0x09, 0x0A, 0x0B, 0x0C, 0x0D, 0x0E, 0x0F, 0x10, 0x11, 0x12, 0x13, 0x14, 0x15]

/-- Steps 0x41 to 0x4A, the coefficient registers (42_colour.md R220). -/
def coefSteps : List Byte := [0x41, 0x42, 0x43, 0x44, 0x45, 0x46, 0x47, 0x48, 0x49, 0x4A]

/-- The step list of the command with opcode `op` (30_encoding.md R106). A command without steps, or an opcode of no
command, has none. -/
def stepList (c : Config) (op : Byte) : List Byte :=
  if op = 0x01 then [0x01]
  else if op = 0x02 then [0x02]
  else if op = 0x03 then programSteps
  else if op = 0x04 then [0x16, 0x17]
  else if op = 0x05 then 0x01 :: 0x02 :: (programSteps ++ [0x16, 0x17])
  else if op = 0x10 then timingSteps c
  else if op = 0x11 then [0x30, 0x31, 0x32, 0x33]
  else if op = 0x20 then [0x40]
  else if op = 0x21 then 0x40 :: coefSteps
  else []

/-- The element after `a` in a step list, if `a` is not its last. -/
def following (a : Byte) : List Byte → Option Byte
  | x :: y :: rest => if x = a then some y else following a (y :: rest)
  | [_] => none
  | [] => none

end Sys2Proof.Machine
end

