-- ==== Sys2Proof/Machine/Ops.lean ====
section
/-! DEFINITION. The operations every command is built from: register spaces, the access primitives of 00_scope.md R10,
taking a fault (60_exceptions.md R250 to R255), acceptance, advance and retire (30_encoding.md R105, R107, R108). -/

namespace Sys2Proof.Machine

/-! Register spaces. -/

/-- The word listed for a byte offset; none where nothing has been written, so that the contents are unspecified. -/
def spaceRead : RegSpace → Nat → Option Word
  | [], _ => none
  | (o, v) :: rest, off => if o = off then some v else spaceRead rest off

/-- Put a word at a byte offset, keeping the offsets strictly rising. -/
def spaceWrite : RegSpace → Nat → Word → RegSpace
  | [], off, w => [(off, w)]
  | (o, v) :: rest, off, w =>
    if off < o then (off, w) :: (o, v) :: rest
    else if off = o then (off, w) :: rest
    else (o, v) :: spaceWrite rest off w

/-- The canonical form: offsets strictly rising. An unlisted register reads as no value, so no entry can equal it. -/
def spaceWf : RegSpace → Bool
  | [] => true
  | [_] => true
  | (o, _) :: (p, w) :: rest => decide (o < p) && spaceWf ((p, w) :: rest)

/-- The registers of a space; the engine window is not one of them (20_memory.md R70). -/
def State.space (s : State) : Space → RegSpace
  | .tx => s.tx
  | .dc => s.dc
  | .eng => []

/-- The registers of both spaces are in canonical form. -/
def Memory.wf (s : State) : Bool := spaceWf s.tx && spaceWf s.dc

/-- MemRead (20_memory.md R74): the word at a byte offset of a space, a free value where nothing has been written since
the last reset (log 6). -/
def State.memRead (s : State) (space : Space) (off : Nat) : Word :=
  (spaceRead (s.space space) off).getD (Config.unspecifiedWord s.epoch space off)

/-- MemWrite (20_memory.md R74): the register at a byte offset of a space becomes `w`, whole. -/
def State.memWrite (s : State) (space : Space) (off : Nat) (w : Word) : State :=
  match space with
  | .tx => { s with tx := spaceWrite s.tx off w }
  | .dc => { s with dc := spaceWrite s.dc off w }
  | .eng => s

/-- Record an access in the event history, under the step being performed (20_memory.md R88). -/
def State.logAccess (s : State) (kind : AccessKind) (space : Space) (off : Nat) (w : Word) : State :=
  { s with history := s.history ++
      [{ step := s.seqStep, kind := kind, space := space, address := byteAddress s.cfg space off, value := w }] }

/-! Access primitives (00_scope.md R10). -/

/-- The lock oracle's answer to a read: the next answer supplied, else a free value (10_state.md R60; log 7). -/
def State.lockAnswer (s : State) : Byte :=
  match s.lockAnswers with
  | a :: _ => a
  | [] => Config.lockDraw s.lockDraws

/-- The oracle after one answer. -/
def State.lockAnswered (s : State) : State :=
  match s.lockAnswers with
  | _ :: rest => { s with lockAnswers := rest }
  | [] => { s with lockDraws := s.lockDraws + 1 }

/-- The payload TxRead(n) returns for a storage register: bits 7:0 (10_state.md R47). -/
def State.txPayload (s : State) (n : Nat) : Byte := (s.memRead .tx (txByteOffset s.cfg n)).setWidth 8

/-- What TxRead(n) of a storage register leaves: the access in the history and nothing else (20_memory.md R79). -/
def State.txReadLogged (s : State) (n : Nat) : State :=
  s.logAccess .read .tx (txByteOffset s.cfg n) (s.memRead .tx (txByteOffset s.cfg n))

/-- What TxRead(n) of a lock register leaves: the oracle has answered, and the payload stands in the history (log 7). -/
def State.lockReadLogged (s : State) (n : Nat) : State :=
  (s.lockAnswered).logAccess .read .tx (txByteOffset s.cfg n) (s.lockAnswer.setWidth 32)

/-- TxWrite(n, b): the payload in bits 7:0, bits 31:8 driven to 0 (00_scope.md R10, 10_state.md R47). -/
def State.txWrite (s : State) (n : Nat) (b : Byte) : State :=
  (s.memWrite .tx (txByteOffset s.cfg n) (b.setWidth 32)).logAccess .write .tx (txByteOffset s.cfg n) (b.setWidth 32)

/-- TxModify(n, m, b): a read, then a write of the payload read with the bits of `m` taken from `b`
(00_scope.md R10, 20_memory.md R78). -/
def State.txModify (s : State) (n : Nat) (m b : Byte) : State :=
  (s.txReadLogged n).txWrite n ((s.txPayload n &&& ~~~m) ||| (b &&& m))

/-- DcWrite(off, w) (00_scope.md R10). -/
def State.dcWrite (s : State) (off : Nat) (w : Word) : State :=
  (s.memWrite .dc off w).logAccess .write .dc off w

/-- The access a register step makes: at most one register (30_encoding.md R110). -/
inductive Access
  | txWrite (n : Nat) (b : Byte)
  | txModify (n : Nat) (m b : Byte)
  | dcWrite (off : Nat) (w : Word)
deriving DecidableEq, Repr

/-- Perform an access. -/
def State.perform (s : State) : Access → State
  | .txWrite n b => s.txWrite n b
  | .txModify n m b => s.txModify n m b
  | .dcWrite off w => s.dcWrite off w

/-! Ends of a step. -/

/-- Retire (30_encoding.md R108). -/
def State.retire (s : State) : State :=
  { s with status := { s.status with busy := false, done := true }, seqStep := 0 }

/-- The end of a step that neither faults nor chooses its successor: the next element of the command's list, or retire
after the last (30_encoding.md R107). -/
def State.advance (s : State) : State :=
  match following s.seqStep (stepList s.cfg s.latch.op) with
  | some next => { s with seqStep := next }
  | none => s.retire

/-! Taking a fault. -/

/-- What a fault does beside setting its ERR bit: CmdBusy nothing (60_exceptions.md R252); the other issue faults DONE
and FAIL (R251, R253); a sequencer fault ends the command at once, with FAULT_STEP recorded and nothing undone (R255). -/
def State.faultEffect (s : State) : Cause → State
  | .cmdBusy => s
  | .illegalCmd | .badOperand => { s with status := { s.status with done := true, fail := true } }
  | .badFormat | .lockTimeoutPre | .lockTimeoutPost =>
    { s with faultStep := s.seqStep, seqStep := 0,
             status := { s.status with busy := false, done := true, fail := true } }

/-- Raise a fault (60_exceptions.md R250): the one operation by which the machine takes one. There is no handler and no
return (R260); CLRERR acknowledges. -/
def State.raise (s : State) (c : Cause) : State :=
  { s.faultEffect c with err := s.err.set c }

/-! Acceptance (30_encoding.md R105). -/

/-- The part common to every command: CMD, the latches, DONE and FAIL. -/
def State.accept (s : State) (w : Word) : State :=
  { s with cmd := w, latch := latchInputs w s, status := s.status.accepted }

/-- The sequencer starts at a step. -/
def State.start (s : State) (first : Byte) : State :=
  { s with status := { s.status with busy := true }, seqStep := first }

/-- The command ends at acceptance (NOP, CLRERR). -/
def State.complete (s : State) : State :=
  { s with status := { s.status with done := true } }

/-- Issue of a command: CmdBusy while one runs, else its acceptance (30_encoding.md R104). -/
def State.issue (s : State) (accepted : State) : Host.Outcome State Fault Refusal :=
  if s.status.busy then .next (s.raise .cmdBusy) else .next accepted

end Sys2Proof.Machine
end

