-- ==== Sys2Proof/Machine/Colour.lean ====
section
/-! DEFINITION. Unit C (42_colour.md): the format map, the coefficient packing, and the acceptance of its two commands. -/

namespace Sys2Proof.Machine

/-! MAPFMT (42_colour.md R214 to R217, R219, R226). -/

/-- CSC_RESULT for a row of FMT_MAP and an encoding (42_colour.md R214). -/
def mapResult (c : Config) (row : FmtRow) (enc : Word) : CscResult :=
  { fmtCode := row.code, swizzle := swizzleNumber c row.swizzle, uvSwizzle := row.uvSwizzle, isYuv := row.isYuv,
    tableSel := tableSelect row.isYuv enc, valid := true }

/-- The RGB-to-RGB bank of a layer slot becomes any value (42_colour.md R226; log 13). -/
def State.drawRgbBank (s : State) (slot : Nat) : State := { s with rgbBank := s.rgbBank.modify slot (· + 1) }

/-- The contents of the RGB-to-RGB bank of a layer slot: a free value (log 13). -/
def State.rgbBankContents (s : State) (slot : Nat) : List Word := Config.rgbBankDraw slot (s.rgbBank.getD slot 0)

/-- Step 0x40 MAPFMT with its successor: BadFormat when the key is not in FMT_MAP; retire under CSC.MAPFMT, and under
CSC.LOAD for a format that is not YUV; else step 0x41 (42_colour.md R214, R219). -/
def State.stepMapFmt (s : State) : State :=
  match lookupFormat s.cfg.fmtMap s.latch.fmt with
  | none => ({ s with cscResult := CscResult.reset } : State).raise .badFormat
  | some row =>
    let t := { s with cscResult := mapResult s.cfg row s.latch.enc }
    if s.latch.op = 0x21 then
      if row.isYuv then { t with seqStep := 0x41 } else (t.drawRgbBank s.latch.sel.toNat).retire
    else t.retire

/-! Coefficient registers (42_colour.md R220 to R224). -/

/-- Two 16-bit lanes: the first entry low, the second high (42_colour.md R221). -/
def lanePair (a b : Word) : Word := (a.setWidth 16).setWidth 32 ||| ((b.setWidth 16).setWidth 32 <<< 16)

/-- The value of coefficient register `k` from a table (42_colour.md R220). -/
def coefWord (t : Vector Word 16) (k : Nat) : Word :=
  match k with
  | 0 => lanePair t[0] t[1]
  | 1 => lanePair t[2] t[3]
  | 2 => lanePair t[4] t[5]
  | 3 => lanePair t[6] t[7]
  | 4 => t[8]
  | 5 => t[9]
  | 6 => t[10]
  | 7 => t[11]
  | 8 => lanePair t[12] t[13]
  | _ => lanePair t[14] t[15]

/-- The access of step 0x41 + k, by the table TABLE_SEL names; none where no table is chosen (42_colour.md R220). -/
def coefAccess (c : Config) (tableSel : BitVec 2) (slot n : Nat) : Option Access :=
  if 0x41 ≤ n ∧ n ≤ 0x4A then
    (y2rTable c tableSel).map fun t => .dcWrite (coefOffset c slot (n - 0x41)) (coefWord t (n - 0x41))
  else none

/-! Acceptance. -/

/-- CSC.MAPFMT (42_colour.md R211): step 0x40. -/
def execCscMapfmt (s : State) : Host.Outcome State Fault Refusal :=
  s.issue ((s.accept (encode .cscMapfmt)).start 0x40)

/-- CSC.LOAD (42_colour.md R218): BadOperand for a slot of 6 or more (60_exceptions.md R253), else step 0x40 and, for a
YUV format, 0x41 to 0x4A. -/
def execCscLoad (slot : Byte) (s : State) : Host.Outcome State Fault Refusal :=
  s.issue (if slot.toNat < s.cfg.consts.nLayer then (s.accept (encode (.cscLoad slot))).start 0x40 else s.raise .badOperand)

end Sys2Proof.Machine
end

