-- ==== Sys2Proof/Machine/Pll.lean ====
section
/-! DEFINITION. Unit P (40_pll.md): the solvers, the register sequence, the lock wait, and the acceptance of its five
commands. -/

namespace Sys2Proof.Machine

/-! SOLVE_PRE (40_pll.md R132 to R137). Arithmetic is on naturals, so it is exact (R137). -/

/-- The quantum of the branch taken: the high branch iff the rate exceeds RATE_SPLIT (40_pll.md R133). -/
def preQuantum (k : Constants) (r : Nat) : Nat := if r > k.rateSplit then k.quantumHi else k.quantumLo

/-- The remainder modulo the quantum. -/
def preRemainder (k : Constants) (r : Nat) : Nat := r % preQuantum k r

/-- The untruncated fractional value, 0 when the divider is not enabled (40_pll.md R135). -/
def preFraction (k : Constants) (r : Nat) : Nat :=
  if preRemainder k r ≠ 0 then preRemainder k r * k.fracMul / k.fracDivisor else 0

/-- The pre-PLL results for a rate (40_pll.md R132). -/
def solvePre (c : Config) (r : Nat) : PreResult :=
  { prediv := c.consts.prePrediv,
    fbdiv := BitVec.ofNat 16 (r / preQuantum c.consts r),
    fracEn := decide (preRemainder c.consts r ≠ 0),
    fracDiv := BitVec.ofNat 26 (preFraction c.consts r),
    divset := if r > c.consts.rateSplit then c.divsetHi else c.divsetLo }

/-- Step 0x01 SOLVE_PRE, without its advance. -/
def State.stepSolvePre (s : State) : State :=
  { s with pre := solvePre s.cfg s.latch.rate.toNat,
           status := { s.status with fracOvf := fracOverflows (preFraction s.cfg.consts s.latch.rate.toNat) } }

/-! SOLVE_POST (40_pll.md R140 to R142). -/

/-- The number of leading thresholds below the rate: the length-bounded scan. -/
def thresholdScan (r : Nat) : List Word → Nat
  | [] => 0
  | t :: rest => if t.toNat < r then thresholdScan r rest + 1 else 0

/-- The rate exceeds every threshold (40_pll.md R141). -/
def postOutOfRange (k : Constants) (r : Nat) : Bool := thresholdScan r k.postThr.toList == k.nPost

/-- The entry selected: the first whose threshold is at least the rate, else the last real entry (40_pll.md R141). -/
def postSelect (k : Constants) (r : Nat) : Fin 6 := Fin.ofNat 6 (min (thresholdScan r k.postThr.toList) (k.nPost - 1))

/-- The post-PLL results for a rate (40_pll.md R140). -/
def solvePost (c : Config) (r : Nat) : PostResult :=
  let i := postSelect c.consts r
  { sel := BitVec.ofNat 3 i.val, thresh := c.consts.postThr[i], prediv := c.postTab[i].prediv,
    fbdiv := c.postTab[i].fbdiv, postdiv := c.postTab[i].postdiv, postdivEn := c.postTab[i].postdivEn }

/-- Step 0x02 SOLVE_POST, without its advance. -/
def State.stepSolvePost (s : State) : State :=
  { s with post := solvePost s.cfg s.latch.rate.toNat,
           status := { s.status with oor := postOutOfRange s.cfg.consts s.latch.rate.toNat } }

/-! The register sequence (40_pll.md R145 to R155). -/

/-- The byte step 0x15 writes to POST_PLL_CTRL (40_pll.md R155). -/
def postCtrlByte (c : Config) (postdivEn : Byte) : Byte :=
  (((postdivEn &&& 0x07) <<< c.postEnShift) ||| ((c.refclkSel &&& 0x0F) <<< c.refclkShift)) &&& ~~~c.postPdMask

/-- The access of PLL step `n`, from the result registers (40_pll.md R145). -/
def pllAccess (c : Config) (pre : PreResult) (post : PostResult) (n : Nat) : Option Access :=
  match n with
  | 0x03 => some (.txModify regPrePllCtrl c.prePdMask c.prePdMask)
  | 0x04 => some (.txModify regPostPllCtrl c.postPdMask c.postPdMask)
  | 0x05 => some (.txWrite regPrePllPrediv pre.prediv)
  | 0x06 => some (.txWrite regPrePllFbdivL (lowByte pre.fbdiv))
  | 0x07 => some (.txWrite regPrePllFbdivH (highByte pre.fbdiv))
  | 0x08 => some (.txWrite regPrePllFracCtrl (bit 8 pre.fracEn))
  | 0x09 => some (.txWrite regPrePllFracL (pre.fracDiv.extractLsb' 0 8))
  | 0x0A => some (.txWrite regPrePllFracM (pre.fracDiv.extractLsb' 8 8))
  | 0x0B => some (.txWrite regPrePllFracH (pre.fracDiv.extractLsb' 16 8))
  | 0x0C => some (.txWrite regPrePllDivset0 (wordByte pre.divset 0))
  | 0x0D => some (.txWrite regPrePllDivset1 (wordByte pre.divset 1))
  | 0x0E => some (.txWrite regPrePllDivset2 (wordByte pre.divset 2))
  | 0x0F => some (.txWrite regPrePllDivset3 (wordByte pre.divset 3))
  | 0x10 => some (.txModify regPrePllCtrl c.prePdMask 0)
  | 0x11 => some (.txWrite regPostPllPrediv post.prediv)
  | 0x12 => some (.txWrite regPostPllFbdivL (lowByte post.fbdiv))
  | 0x13 => some (.txWrite regPostPllFbdivH (highByte post.fbdiv))
  | 0x14 => some (.txWrite regPostPllPostdiv post.postdiv)
  | 0x15 => some (.txWrite regPostPllCtrl (postCtrlByte c post.postdivEn))
  | _ => none

/-! The lock wait (40_pll.md R160 to R163). -/

/-- A failed poll: count it, and time out when the budget is spent (40_pll.md R160, R161). -/
def State.pollFailed (s : State) (timeout : Cause) : State :=
  let t := { s with pollcnt := s.pollcnt + 1 }
  if t.pollcnt = t.cfg.nPollMax then t.raise timeout else t

/-- Step 0x16 POLL_PRE, one iteration (40_pll.md R160). -/
def State.stepPollPre (s : State) : State :=
  let t := s.lockReadLogged regPrePllLock
  if reportsLock s.cfg s.lockAnswer then
    { t with status := { t.status with preLocked := true }, pollcnt := 0, seqStep := 0x17 }
  else t.pollFailed .lockTimeoutPre

/-- Step 0x17 POLL_POST, one iteration (40_pll.md R161). -/
def State.stepPollPost (s : State) : State :=
  let t := s.lockReadLogged regPostPllLock
  if reportsLock s.cfg s.lockAnswer then
    ({ t with status := { t.status with postLocked := true } } : State).retire
  else t.pollFailed .lockTimeoutPost

/-! Acceptance of the five commands, from which the sequencer goes on by itself. -/

/-- PLL.SOLVEPRE (40_pll.md R131): clears FRAC_OVF; step 0x01. -/
def execPllSolvepre (s : State) : Host.Outcome State Fault Refusal :=
  let t := s.accept (encode .pllSolvepre)
  s.issue (({ t with status := t.status.clearFracOvf } : State).start 0x01)

/-- PLL.SOLVEPOST (40_pll.md R139): clears OOR; step 0x02. -/
def execPllSolvepost (s : State) : Host.Outcome State Fault Refusal :=
  let t := s.accept (encode .pllSolvepost)
  s.issue (({ t with status := t.status.clearOor } : State).start 0x02)

/-- PLL.PROGRAM (40_pll.md R144): clears the lock reports; steps 0x03 to 0x15. -/
def execPllProgram (s : State) : Host.Outcome State Fault Refusal :=
  let t := s.accept (encode .pllProgram)
  s.issue (({ t with status := t.status.clearLocks } : State).start 0x03)

/-- PLL.WAITLOCK (40_pll.md R159): clears the lock reports and POLLCNT; steps 0x16, 0x17. -/
def execPllWaitlock (s : State) : Host.Outcome State Fault Refusal :=
  let t := s.accept (encode .pllWaitlock)
  s.issue (({ t with status := t.status.clearLocks, pollcnt := 0 } : State).start 0x16)

/-- PLL.CONFIGURE (40_pll.md R165): clears OOR, FRAC_OVF, the lock reports and POLLCNT; steps 0x01 to 0x17. -/
def execPllConfigure (s : State) : Host.Outcome State Fault Refusal :=
  let t := s.accept (encode .pllConfigure)
  s.issue (({ t with status := t.status.clearFracOvf.clearOor.clearLocks, pollcnt := 0 } : State).start 0x01)

end Sys2Proof.Machine
end

