-- ==== Sys2Proof/Machine/System.lean ====
section
/-! DEFINITION. The system family (43_system.md): two commands that complete at acceptance. -/

namespace Sys2Proof.Machine

/-- NOP (43_system.md R241). -/
def execNop (s : State) : Host.Outcome State Fault Refusal :=
  s.issue (s.accept (encode .nop)).complete

/-- CLRERR (43_system.md R243): clears the six ERR bits and nothing else. -/
def execClrerr (s : State) : Host.Outcome State Fault Refusal :=
  s.issue ({ s.accept (encode .clrerr) with err := Err.reset } : State).complete

end Sys2Proof.Machine
end

