-- ==== Sys2Proof/Machine/Timing.lean ====
section
/-! DEFINITION. Unit T (41_timing.md): the external-timing bytes, the display-controller timing words, and the acceptance
of its two commands. -/

namespace Sys2Proof.Machine

/-! Field values, 16-bit and modulo 2^16 (41_timing.md R182, R188). -/

/-- "Sync delay" of an axis with this total, display and sync start, by the configured reading
(93_implementation_defined.md U12; log 18). -/
def syncDelay (reading : SyncDelay) (m : Mode) (total display start : Half) : Half :=
  match reading with
  | .totalMinusStart => total - start
  | .startMinusDisplay => start - display
  | .other k =>
    Config.otherSyncDelay k #v[m.hdisplay, m.hsyncStart, m.hsyncEnd, m.htotal]
      #v[m.vdisplay, m.vsyncStart, m.vsyncEnd, m.vtotal] m.flags

def extHtotal (m : Mode) : Half := m.htotal
def extHblank (m : Mode) : Half := m.htotal - m.hdisplay
def extHdelay (c : Config) (m : Mode) : Half := syncDelay c.hdelay m m.htotal m.hdisplay m.hsyncStart
def extHduration (m : Mode) : Half := m.hsyncEnd - m.hsyncStart
def extVtotal (m : Mode) : Half := m.vtotal
def extVblank (m : Mode) : Half := m.vtotal - m.vdisplay
def extVdelay (c : Config) (m : Mode) : Half := syncDelay c.vdelay m m.vtotal m.vdisplay m.vsyncStart
def extVduration (m : Mode) : Half := m.vsyncEnd - m.vsyncStart

/-- The composite byte (41_timing.md R183). -/
def timingCtlByte (c : Config) (m : Mode) : Byte :=
  (1#8 <<< c.tctl.enable) ||| (bit 8 m.interlace <<< c.tctl.interlace) ||| (bit 8 m.phsync <<< c.tctl.hsync) |||
    (bit 8 m.pvsync <<< c.tctl.vsync)

/-- The access of VT.TX step `n`; the register number equals the step number (41_timing.md R185, R186). -/
def timingAccess (c : Config) (m : Mode) (n : Nat) : Option Access :=
  match n with
  | 0x20 => some (.txWrite regVideoTimingCtl (timingCtlByte c m))
  | 0x21 => some (.txWrite 0x21 (lowByte (extHtotal m)))
  | 0x22 => some (.txWrite 0x22 (highByte (extHtotal m)))
  | 0x23 => some (.txWrite 0x23 (lowByte (extHblank m)))
  | 0x24 => some (.txWrite 0x24 (highByte (extHblank m)))
  | 0x25 => some (.txWrite 0x25 (lowByte (extHdelay c m)))
  | 0x26 => some (.txWrite 0x26 (highByte (extHdelay c m)))
  | 0x27 => some (.txWrite 0x27 (lowByte (extHduration m)))
  | 0x28 => some (.txWrite 0x28 (highByte (extHduration m)))
  | 0x29 => some (.txWrite 0x29 (lowByte (extVtotal m)))
  | 0x2A => some (.txWrite 0x2A (highByte (extVtotal m)))
  | 0x2B => some (.txWrite 0x2B (lowByte (extVblank m)))
  | 0x1D => some (.txWrite regExtVblankH (highByte (extVblank m)))
  | 0x2C => some (.txWrite 0x2C (lowByte (extVdelay c m)))
  | 0x1E => some (.txWrite regExtVdelayH (highByte (extVdelay c m)))
  | 0x2D => some (.txWrite 0x2D (lowByte (extVduration m)))
  | 0x1F => some (.txWrite regExtVdurationH (highByte (extVduration m)))
  | _ => none

/-! Timing words (41_timing.md R193, R194). -/

/-- A mode value cut to 15 bits, at a position of the word. -/
def placed15 (v : Half) (pos : Nat) : Word := (v.setWidth 15).setWidth 32 <<< pos

/-- Active and total length (W_H, W_V). -/
def lengthWord (l : DcLayout) (active total : Half) : Word := placed15 active l.active ||| placed15 total l.total

/-- Sync start, sync end, plus and polarity (W_HSYNC, W_VSYNC). -/
def syncWord (l : DcLayout) (start stop : Half) (positive : Bool) : Word :=
  placed15 start l.syncStart ||| placed15 stop l.syncEnd ||| (bit 32 l.plusValue <<< l.plus) |||
    (bit 32 positive <<< l.polarity)

/-- The access of VT.DC step `n` for panel `p` (41_timing.md R195). -/
def panelAccess (c : Config) (m : Mode) (p n : Nat) : Option Access :=
  match n with
  | 0x30 => some (.dcWrite (timingOffset c 0 p) (lengthWord c.dcLayout m.hdisplay m.htotal))
  | 0x31 => some (.dcWrite (timingOffset c 1 p) (syncWord c.dcLayout m.hsyncStart m.hsyncEnd m.phsync))
  | 0x32 => some (.dcWrite (timingOffset c 2 p) (lengthWord c.dcLayout m.vdisplay m.vtotal))
  | 0x33 => some (.dcWrite (timingOffset c 3 p) (syncWord c.dcLayout m.vsyncStart m.vsyncEnd m.pvsync))
  | _ => none

/-! Acceptance. -/

/-- VT.TX (41_timing.md R181): steps 0x20 to 0x2D with the default TX_W. -/
def execVtTx (s : State) : Host.Outcome State Fault Refusal :=
  s.issue ((s.accept (encode .vtTx)).start 0x20)

/-- VT.DC (41_timing.md R192): BadOperand for a panel of 2 or more (60_exceptions.md R253), else steps 0x30 to 0x33. -/
def execVtDc (panel : Byte) (s : State) : Host.Outcome State Fault Refusal :=
  s.issue (if panel.toNat < s.cfg.consts.nPanel then (s.accept (encode (.vtDc panel))).start 0x30 else s.raise .badOperand)

end Sys2Proof.Machine
end

