-- ==== Sys2Proof/Machine/Dispatch.lean ====
section
/-! DEFINITION. Issue of a command (30_encoding.md R104): one arm per command. -/

namespace Sys2Proof.Machine

def exec (i : Instr) (s : State) : Host.Outcome State Fault Refusal :=
  match i with
  | .nop => Sys2Proof.Machine.execNop s
  | .pllSolvepre => Sys2Proof.Machine.execPllSolvepre s
  | .pllSolvepost => Sys2Proof.Machine.execPllSolvepost s
  | .pllProgram => Sys2Proof.Machine.execPllProgram s
  | .pllWaitlock => Sys2Proof.Machine.execPllWaitlock s
  | .pllConfigure => Sys2Proof.Machine.execPllConfigure s
  | .vtTx => Sys2Proof.Machine.execVtTx s
  | .vtDc panel => Sys2Proof.Machine.execVtDc panel s
  | .cscMapfmt => Sys2Proof.Machine.execCscMapfmt s
  | .cscLoad slot => Sys2Proof.Machine.execCscLoad slot s
  | .clrerr => Sys2Proof.Machine.execClrerr s

end Sys2Proof.Machine
end

