-- ==== Sys2Proof/Machine/Sequencer.lean ====
section
/-! DEFINITION. The sequencer: one micro-step of the running command (30_encoding.md R107, R110), and which foreign
registers the running command touches (70_reset_and_hazards.md R310). -/

namespace Sys2Proof.Machine

/-- The access of a register step, by step number (30_encoding.md R110). -/
def stepAccess (s : State) : Option Access :=
  let n := s.seqStep.toNat
  match pllAccess s.cfg s.pre s.post n with
  | some a => some a
  | none =>
    match timingAccess s.cfg s.latch.mode n with
    | some a => some a
    | none =>
      match panelAccess s.cfg s.latch.mode s.latch.sel.toNat n with
      | some a => some a
      | none => coefAccess s.cfg s.cscResult.tableSel s.latch.sel.toNat n

/-- A register step: its access, then the next step. -/
def State.stepRegister (s : State) : Host.Outcome State Fault Refusal :=
  match stepAccess s with
  | some a => .next (s.perform a).advance
  | none => .fault .sequencerStuck

/-- One micro-step of the running command. A STEP that is no step of the latched command has no rule (log 15). -/
def sequencerStep (s : State) : Host.Outcome State Fault Refusal :=
  if (stepList s.cfg s.latch.op).contains s.seqStep then
    match s.seqStep.toNat with
    | 0x01 => .next s.stepSolvePre.advance
    | 0x02 => .next s.stepSolvePost.advance
    | 0x16 => .next s.stepPollPre
    | 0x17 => .next s.stepPollPost
    | 0x40 => .next s.stepMapFmt
    | _ => s.stepRegister
  else .fault .sequencerStuck

/-- The sequencer's turn: a micro-step while BUSY, nothing while idle (30_encoding.md R107). -/
def sequencerTurn (s : State) : Host.Outcome State Fault Refusal :=
  if s.status.busy then sequencerStep s else .next s

/-- `n` turns of the sequencer with nothing else in between. -/
def sequencerRun : Nat → State → Host.Outcome State Fault Refusal
  | 0, s => .next s
  | n + 1, s =>
    match sequencerTurn s with
    | .next t => sequencerRun n t
    | .fault f => .fault f
    | .refused r => .refused r

/-! EXCLUSIVE_WINDOW. -/

/-- The logical HDMI-block registers a command touches (30_encoding.md R110). -/
def touchedTx (c : Config) (op : Byte) : List Nat :=
  if op = 0x03 then List.range 0x11
  else if op = 0x04 then [regPrePllLock, regPostPllLock]
  else if op = 0x05 then List.range 0x13
  else if op = 0x10 then (timingSteps c).map (fun n => n.toNat)
  else []

/-- The display-controller offsets a command touches; CSC.LOAD touches none for a format that is not YUV or not in
FMT_MAP (42_colour.md R217, R226). -/
def touchedDc (c : Config) (l : Latches) : List Nat :=
  if l.op = 0x11 then
    [timingOffset c 0 l.sel.toNat, timingOffset c 1 l.sel.toNat, timingOffset c 2 l.sel.toNat, timingOffset c 3 l.sel.toNat]
  else if l.op = 0x21 then
    match lookupFormat c.fmtMap l.fmt with
    | some row => if row.isYuv then (List.range c.consts.nCoefReg).map (coefOffset c l.sel.toNat) else []
    | none => []
  else []

/-- The running command touches this register of this space. -/
def commandTouches (s : State) (space : Space) (off : Nat) : Bool :=
  match space with
  | .eng => false
  | .tx => ((touchedTx s.cfg s.latch.op).map (txByteOffset s.cfg)).contains off
  | .dc => (touchedDc s.cfg s.latch).contains off

end Sys2Proof.Machine
end

