-- ==== Sys2Proof/Machine/HostPort.lean ====
section
/-! DEFINITION. What agents outside the engine do: host reads and writes of the engine window (10_state.md R21 to R36),
command issue (30_encoding.md R104), script statements (30_encoding.md R120), platform reset (70_reset_and_hazards.md
R290, R291), foreign writes (70_reset_and_hazards.md R310); and the turns of the agents. -/

namespace Sys2Proof.Machine

/-! The engine window. -/

/-- The registers of the engine window (10_state.md R21). -/
inductive EngReg
  | cmd
  | status
  | err
  | seq
  | pollcnt
  | rate
  | prePrediv
  | preFbdiv
  | preFrac
  | preDivset
  | postSel
  | postThresh
  | postPrediv
  | postFbdiv
  | postPostdiv
  | postPostdivEn
  | modeHdisplay
  | modeHsyncStart
  | modeHsyncEnd
  | modeHtotal
  | modeVdisplay
  | modeVsyncStart
  | modeVsyncEnd
  | modeVtotal
  | modeFlags
  | cscFormat
  | cscEncoding
  | cscResult
deriving DecidableEq, Repr

/-- The register at a word index; none for a reserved index (10_state.md R21, R34). -/
def engRegister (index : Nat) : Option EngReg :=
  match index with
  | 0x00 => some .cmd
  | 0x01 => some .status
  | 0x02 => some .err
  | 0x03 => some .seq
  | 0x04 => some .pollcnt
  | 0x05 => some .rate
  | 0x06 => some .prePrediv
  | 0x07 => some .preFbdiv
  | 0x08 => some .preFrac
  | 0x09 => some .preDivset
  | 0x0A => some .postSel
  | 0x0B => some .postThresh
  | 0x0C => some .postPrediv
  | 0x0D => some .postFbdiv
  | 0x0E => some .postPostdiv
  | 0x0F => some .postPostdivEn
  | 0x10 => some .modeHdisplay
  | 0x11 => some .modeHsyncStart
  | 0x12 => some .modeHsyncEnd
  | 0x13 => some .modeHtotal
  | 0x14 => some .modeVdisplay
  | 0x15 => some .modeVsyncStart
  | 0x16 => some .modeVsyncEnd
  | 0x17 => some .modeVtotal
  | 0x18 => some .modeFlags
  | 0x20 => some .cscFormat
  | 0x21 => some .cscEncoding
  | 0x22 => some .cscResult
  | _ => none

/-- The 32-bit value a host read of a register returns; unused bits read 0 (10_state.md R22 to R34). -/
def State.readRegister (s : State) : EngReg → Word
  | .cmd => s.cmd
  | .status => statusWord s.status
  | .err => errWord s.err
  | .seq => seqWord s.seqStep s.faultStep
  | .pollcnt => (pollcntWord s.pollcnt).setWidth 32
  | .rate => s.rate
  | .prePrediv => s.pre.prediv.setWidth 32
  | .preFbdiv => s.pre.fbdiv.setWidth 32
  | .preFrac => fracWord s.pre
  | .preDivset => s.pre.divset
  | .postSel => s.post.sel.setWidth 32
  | .postThresh => s.post.thresh
  | .postPrediv => s.post.prediv.setWidth 32
  | .postFbdiv => s.post.fbdiv.setWidth 32
  | .postPostdiv => s.post.postdiv.setWidth 32
  | .postPostdivEn => s.post.postdivEn.setWidth 32
  | .modeHdisplay => s.mode.hdisplay.setWidth 32
  | .modeHsyncStart => s.mode.hsyncStart.setWidth 32
  | .modeHsyncEnd => s.mode.hsyncEnd.setWidth 32
  | .modeHtotal => s.mode.htotal.setWidth 32
  | .modeVdisplay => s.mode.vdisplay.setWidth 32
  | .modeVsyncStart => s.mode.vsyncStart.setWidth 32
  | .modeVsyncEnd => s.mode.vsyncEnd.setWidth 32
  | .modeVtotal => s.mode.vtotal.setWidth 32
  | .modeFlags => s.mode.flags.setWidth 32
  | .cscFormat => s.cscFormat
  | .cscEncoding => s.cscEncoding
  | .cscResult => cscResultWord s.cscResult

/-- The value a host read of an index returns; 0 for a reserved index (10_state.md R34). -/
def State.windowRead (s : State) (index : Nat) : Word :=
  match engRegister index with
  | some r => s.readRegister r
  | none => 0

/-- A host write to an input register keeps the bits used; one to a read-only register is ignored (10_state.md R27,
R30 to R32, R36). CMD is not handled here. -/
def State.writeRegister (s : State) (v : Word) : EngReg → State
  | .rate => { s with rate := v }
  | .modeHdisplay => { s with mode := { s.mode with hdisplay := v.setWidth 16 } }
  | .modeHsyncStart => { s with mode := { s.mode with hsyncStart := v.setWidth 16 } }
  | .modeHsyncEnd => { s with mode := { s.mode with hsyncEnd := v.setWidth 16 } }
  | .modeHtotal => { s with mode := { s.mode with htotal := v.setWidth 16 } }
  | .modeVdisplay => { s with mode := { s.mode with vdisplay := v.setWidth 16 } }
  | .modeVsyncStart => { s with mode := { s.mode with vsyncStart := v.setWidth 16 } }
  | .modeVsyncEnd => { s with mode := { s.mode with vsyncEnd := v.setWidth 16 } }
  | .modeVtotal => { s with mode := { s.mode with vtotal := v.setWidth 16 } }
  | .modeFlags => { s with mode := { s.mode with flags := v.setWidth 3 } }
  | .cscFormat => { s with cscFormat := v }
  | .cscEncoding => { s with cscEncoding := v }
  | .cmd | .status | .err | .seq | .pollcnt | .prePrediv | .preFbdiv | .preFrac | .preDivset | .postSel | .postThresh
  | .postPrediv | .postFbdiv | .postPostdiv | .postPostdivEn | .cscResult => s

/-- A host write of word `w` to CMD, decided in the order of 30_encoding.md R104: busy, illegal word, then the command
itself, which checks its operand. -/
def issueWord (w : Word) (s : State) : Host.Outcome State Fault Refusal :=
  if s.status.busy then .next (s.raise .cmdBusy)
  else match decodeWord w with
    | .reject _ => .next (s.raise .illegalCmd)
    | .instr i => exec i s

/-- A host write to an index of the engine window (10_state.md R21, R34). -/
def windowWrite (index : Nat) (v : Word) (s : State) : Host.Outcome State Fault Refusal :=
  match engRegister index with
  | some .cmd => issueWord v s
  | some r => .next (s.writeRegister v r)
  | none => .next s

/-- A host read: the value goes to the host, the engine does not change (10_state.md R36; log 16). -/
def State.hostRead (s : State) (index : Nat) : State :=
  { s with observed := s.observed ++ [(index, s.windowRead index)] }

/-! Reset and foreign writes. -/

/-- The reset event (70_reset_and_hazards.md R290, R291). The engine becomes all 0. When it cuts a command short, the
foreign registers stay as they were; otherwise they hold unspecified values, drawn afresh, and so do the RGB-to-RGB
banks (log 8). -/
def State.platformReset (s : State) : State :=
  { State.reset with
    cfg := s.cfg
    tx := if s.status.busy then s.tx else []
    dc := if s.status.busy then s.dc else []
    epoch := if s.status.busy then s.epoch else s.epoch + 1
    rgbBank := if s.status.busy then s.rgbBank else s.rgbBank.map (· + 1)
    lockAnswers := s.lockAnswers
    lockDraws := s.lockDraws
    history := s.history
    observed := s.observed
    inputs := s.inputs
    turns := s.turns }

/-- The offset is a lock-status register, which is read-only (10_state.md R45). -/
def hitsLockRegister (c : Config) (off : Nat) : Bool :=
  off == txByteOffset c regPrePllLock || off == txByteOffset c regPostPllLock

/-- A write by another component: refused when it breaks EXCLUSIVE_WINDOW (70_reset_and_hazards.md R310), without effect
on a read-only register, else a whole-register write (log 14). -/
def foreignWrite (space : Space) (off : Nat) (v : Word) (s : State) : Host.Outcome State Fault Refusal :=
  if s.status.busy && commandTouches s space off then .refused .exclusiveWindow
  else if space == .tx && hitsLockRegister s.cfg off then .next s
  else .next (s.memWrite space off v)

/-! Turns. -/

/-- The outside performs one input; `s` is the state with the input taken from the queue, and `again` the state with
the input left there, for a WAIT that is not over (30_encoding.md R120; log 16). -/
def performInput (i : Input) (again s : State) : Host.Outcome State Fault Refusal :=
  match i with
  | .host (.wr index v) => windowWrite index v s
  | .host (.rd index) => .next (s.hostRead index)
  | .host .wait => .next ((if s.status.busy then again else s).hostRead 0x01)
  | .reset => .next s.platformReset
  | .foreignTx index v => foreignWrite .tx (4 * index) v s
  | .foreignDc index v => foreignWrite .dc (4 * index) v s

/-- The outside's turn: the next input, or nothing. -/
def outsideTurn (s : State) : Host.Outcome State Fault Refusal :=
  match s.inputs with
  | [] => .next s
  | i :: rest => performInput i s { s with inputs := rest }

/-- The agent that moves next (log 4). -/
def State.nextAgent (s : State) : Agent :=
  match s.turns with
  | a :: _ => a
  | [] => if s.status.busy then .sequencer else .outside

/-- The state with the turn taken from the list. -/
def State.turnTaken (s : State) : State := { s with turns := s.turns.tail }

/-- One transition of the machine under a valid configuration. -/
def agentTurn (s : State) : Host.Outcome State Fault Refusal :=
  match s.nextAgent with
  | .sequencer => sequencerTurn s.turnTaken
  | .outside => outsideTurn s.turnTaken

end Sys2Proof.Machine
end

