-- ==== Sys2Proof/Machine/Step.lean ====
section
/-! DEFINITION. The step function: refuse a configuration the spec refuses, else let the agent whose turn it is move. -/

namespace Sys2Proof.Machine

/-- One step of the machine (30_encoding.md R107; log 4). -/
def step (s : State) : Host.Outcome State Fault Refusal :=
  if configValid s.cfg then agentTurn s else .refused .invalidConfiguration

/-- `s` with a command word about to be written to CMD by the host, and the host about to move: the next step issues
it. The word is the host's next script statement, which is where this machine takes a command from (log 1). -/
def State.withFetchWord (s : State) (nbits w : Nat) : State :=
  { s with inputs := .host (.wr 0x00 (BitVec.ofNat 32 (w % 2 ^ nbits))) :: s.inputs, turns := .outside :: s.turns }

end Sys2Proof.Machine
end

