-- ==== Sys2Proof/Machine/Script.lean ====
section
/-! DEFINITION. Host scripts: the statements of 30_encoding.md R120 as inputs, and the pseudo-commands of R121. -/

namespace Sys2Proof.Machine

/-- `CMD mnemonic sel`: a write of the command's word to CMD. -/
def scriptCmd (i : Instr) : Input := .host (.wr 0x00 (encode i))

/-- `WAIT`. -/
def scriptWait : Input := .host .wait

/-- `SETRATE r`. -/
def scriptSetRate (r : Word) : List Input := [.host (.wr 0x05 r)]

/-- `PLLSET r`. -/
def scriptPllSet (r : Word) : List Input := [.host (.wr 0x05 r), scriptCmd .pllConfigure, scriptWait]

/-- `SETMODE hd, hss, hse, ht, vd, vss, vse, vt, fl`. -/
def scriptSetMode (hd hss hse ht vd vss vse vt fl : Word) : List Input :=
  [.host (.wr 0x10 hd), .host (.wr 0x11 hss), .host (.wr 0x12 hse), .host (.wr 0x13 ht), .host (.wr 0x14 vd),
   .host (.wr 0x15 vss), .host (.wr 0x16 vse), .host (.wr 0x17 vt), .host (.wr 0x18 fl)]

/-- `TIMING p`. -/
def scriptTiming (p : Byte) : List Input := [scriptCmd .vtTx, scriptWait, scriptCmd (.vtDc p), scriptWait]

/-- `CSCSET slot, fmt, enc`. -/
def scriptCscSet (slot : Byte) (fmt enc : Word) : List Input :=
  [.host (.wr 0x20 fmt), .host (.wr 0x21 enc), scriptCmd (.cscLoad slot), scriptWait]

/-- The encoding of a script line: engine-window byte offset and value of the write it performs; a read or WAIT writes
nothing (30_encoding.md R120). -/
def scriptEncoding : Input → Option (Nat × Word)
  | .host (.wr index v) => some (4 * index, v)
  | .host (.rd _) | .host .wait | .reset | .foreignTx _ _ | .foreignDc _ _ => none

end Sys2Proof.Machine
end

