-- ==== Sys2Proof/Safety.lean ====
section
/-! DEFINITION. What a consistent state is, and the vocabulary claims use: the answers of the lock oracle in order, a
command with the sequencer steps after it, what the outside is about to do. -/

namespace Sys2Proof.Machine

/-- The relations between fields that the spec states and every step keeps. It rules out states no run reaches. -/
structure Consistent (s : State) : Prop where
  /-- The configuration is not one the spec refuses. -/
  cfgValid : configValid s.cfg = true
  /-- Both register spaces are in canonical form. -/
  txWf : spaceWf s.tx = true
  dcWf : spaceWf s.dc = true
  /-- BUSY and DONE are never both 1 (10_state.md R23). -/
  busyNotDone : s.status.busy = true → s.status.done = false
  /-- FAIL = 1 implies DONE = 1 (10_state.md R23). -/
  failDone : s.status.fail = true → s.status.done = true
  /-- STEP is 0 when idle (10_state.md R25). -/
  idleStep : s.status.busy = false → s.seqStep = 0
  /-- STEP is a step of the latched command while BUSY (30_encoding.md R106, R107). -/
  busyStep : s.status.busy = true → s.seqStep ∈ stepList s.cfg s.latch.op
  /-- CMD is an acceptable command, the one latched (10_state.md R22, R35, 30_encoding.md R103). -/
  accepted : ∃ i : Instr, i.wf = true ∧ s.cmd = encode i ∧ s.latch.op = i.opcode ∧ s.latch.sel = i.sel
  /-- POLLCNT never exceeds N_POLL_MAX (10_state.md R26), and is below it while a wait is ahead or going on. -/
  pollBound : s.pollcnt ≤ s.cfg.nPollMax
  polling : s.status.busy = true → s.latch.op = 0x04 ∨ s.latch.op = 0x05 → s.pollcnt < s.cfg.nPollMax
  /-- CSC_RESULT is 0 or holds a mapped format, whose TABLE_SEL is 3 exactly when it is not YUV (10_state.md R33). -/
  resultInvalid : s.cscResult.valid = false → s.cscResult = CscResult.reset
  resultTable : s.cscResult.valid = true → (s.cscResult.isYuv = true ↔ s.cscResult.tableSel ≠ 3)
  /-- Coefficient steps run only for a format just found to be YUV (30_encoding.md R106). -/
  coefYuv : s.status.busy = true → s.seqStep ∈ coefSteps → s.cscResult.valid = true ∧ s.cscResult.isYuv = true
  /-- POST_SEL is at most 5 (10_state.md R29). -/
  postSel : s.post.sel.toNat ≤ 5
  /-- PRE_PREDIV is 0 before the first solve and the constant after it (40_pll.md R134). -/
  prediv : s.pre.prediv = 0 ∨ s.pre.prediv = s.cfg.consts.prePrediv
  /-- With the constants of 00_scope.md R7, PRE_FBDIV and FRACDIV stay in the ranges of 40_pll.md R132, R135. -/
  fbdiv : s.cfg.consts = {} → s.pre.fbdiv.toNat ≤ 1431
  fracDiv : s.cfg.consts = {} → s.pre.fracDiv.toNat ≤ 50331628
  /-- One RGB-to-RGB bank per layer slot. -/
  rgbBanks : s.rgbBank.length = s.cfg.consts.nLayer

/-- The lock oracle's answer number `k`, counted from now (10_state.md R60). -/
def State.lockAnswerAt (s : State) (k : Nat) : Byte :=
  if k < s.lockAnswers.length then s.lockAnswers.getD k 0
  else Config.lockDraw (s.lockDraws + (k - s.lockAnswers.length))

/-- The oracle after `n` answers. -/
def State.afterAnswers (s : State) (n : Nat) : State :=
  { s with lockAnswers := s.lockAnswers.drop n, lockDraws := s.lockDraws + (n - s.lockAnswers.length) }

/-- The read event of a lock register with the payload read. -/
def lockEvent (c : Config) (step : Byte) (n : Nat) (payload : Byte) : Event :=
  { step := step, kind := .read, space := .tx, address := byteAddress c .tx (txByteOffset c n),
    value := payload.setWidth 32 }

/-- The events of one TxWrite and of one DcWrite. -/
def txWriteEvent (c : Config) (step : Byte) (n : Nat) (b : Byte) : Event :=
  { step := step, kind := .write, space := .tx, address := byteAddress c .tx (txByteOffset c n), value := b.setWidth 32 }

def dcWriteEvent (c : Config) (step : Byte) (off : Nat) (w : Word) : Event :=
  { step := step, kind := .write, space := .dc, address := byteAddress c .dc off, value := w }

/-- The bytes of one external-timing field and the registers they go to: the low byte, then the high byte when the field
is a pair. -/
def fieldBytes (width : FieldWidth) (low high : Nat) (v : Half) : List (Nat × Byte) :=
  (low, v.extractLsb' 0 8) :: (if width = .pair then [(high, v.extractLsb' 8 8)] else [])

/-- The event of one TxRead of a storage register. -/
def txReadEvent (c : Config) (step : Byte) (n : Nat) (w : Word) : Event :=
  { step := step, kind := .read, space := .tx, address := byteAddress c .tx (txByteOffset c n), value := w }

/-- The inputs as they stand, under an OP and a SEL: what acceptance latches (10_state.md R35). -/
def State.snapshot (s : State) (op sel : Byte) : Latches :=
  { op := op, sel := sel, rate := s.rate, mode := s.mode, fmt := s.cscFormat, enc := s.cscEncoding }

/-- A command issued, then `n` turns of the sequencer. -/
def commandRun (i : Instr) (n : Nat) (s : State) : Host.Outcome State Fault Refusal :=
  match exec i s with
  | .next t => sequencerRun n t
  | .fault f => .fault f
  | .refused r => .refused r

/-- The outside moves next, and its next input is `i`. -/
def State.aboutTo (s : State) (i : Input) : Prop := s.nextAgent = .outside ∧ s.inputs.head? = some i

/-- The state when the outside's turn and its input have been taken. -/
def State.inputTaken (s : State) : State := { s with turns := s.turns.tail, inputs := s.inputs.tail }

end Sys2Proof.Machine
end

