-- ==== Sys2Proof/Certificates/Slice0/Obligations.lean ====
section
/-! DEFINITION. The statements made of the model. `exec i s` is the issue of command `i`; `sequencerRun n` is `n` turns of
the sequencer with nothing else in between (a turn of an idle sequencer changes nothing). -/

open Sys2Proof Sys2Proof.Machine

/-! ## Decoding -/

/-- 30_encoding.md R100 to R102: decoding the word of a command gives the command back, whatever its operand, and a
word that decodes to a command is that command's word. R101 is the spec's own inference. -/
def Obligations.DecodeAndEncodeAgree : Prop :=
  ∀ (i : Instr) (w : Word), decodeWord w = .instr i ↔ encode i = w

/-- 30_encoding.md R111: the illegal words are those with ZERO set, those with an OP outside the map, and those with a SEL
on a command that takes none; they are the words no command encodes to. -/
def Obligations.IllegalWordsAreExactlyThese : Prop :=
  ∀ w : Word,
    ((∃ r, decodeWord w = .reject r) ↔
      w.extractLsb' 16 16 ≠ 0 ∨
      w.extractLsb' 0 8 ∉ ([0x00, 0x01, 0x02, 0x03, 0x04, 0x05, 0x10, 0x11, 0x20, 0x21, 0x7F] : List Byte) ∨
      (w.extractLsb' 0 8 ∉ ([0x11, 0x21] : List Byte) ∧ w.extractLsb' 8 8 ≠ 0)) ∧
    ((∃ r, decodeWord w = .reject r) ↔ ¬ ∃ i, encode i = w)

/-- 30_encoding.md R100, R102, R111: the three example words of R101 (the spec's own inference), the word of CLRERR, a
VT.DC with a SEL out of range (that it decodes is the model's reading, log 17), and three illegal words: an OP outside the
map, a SEL where none is taken, a ZERO field set. -/
def Obligations.SampleWordsDecode : Prop :=
  decodeWord 0x00000005 = .instr .pllConfigure ∧ decodeWord 0x00000111 = .instr (.vtDc 1) ∧
  decodeWord 0x00000421 = .instr (.cscLoad 4) ∧ decodeWord 0x00000211 = .instr (.vtDc 2) ∧
  decodeWord 0x0000007F = .instr .clrerr ∧ decodeWord 0x00000006 = .reject .unknownOpcode ∧
  decodeWord 0x00000110 = .reject .selNotTaken ∧ decodeWord 0x00010000 = .reject .zeroFieldSet

/-! ## Issue -/

/-- 30_encoding.md R104: when the outside moves and the host's next statement writes to CMD a word that decodes to
`i`, the step is the issue of `i`, with the turn and the statement taken. That the host's statements stand in a queue
is the model's form (log 1, log 4). -/
def Obligations.StepIssuesDecodedCommand : Prop :=
  ∀ (s : State) (w : Word) (i : Instr), configValid s.cfg = true → s.aboutTo (.host (.wr 0x00 w)) →
    decodeWord w = .instr i → step s = exec i s.inputTaken

/-- 30_encoding.md R107: while BUSY the sequencer's turn is one micro-step. Whose turn it is, with the sequencer moving
while BUSY when no turns are listed, is the model's form (log 4); that a turn of an idle sequencer changes nothing is the
model's choice (log 21). -/
def Obligations.StepIsSequencerTurn : Prop :=
  ∀ s : State, configValid s.cfg = true →
    (s.nextAgent = .sequencer → step s = sequencerTurn { s with turns := s.turns.tail }) ∧
    (s.turns = [] → s.status.busy = true → s.nextAgent = .sequencer) ∧
    (s.status.busy = true → sequencerTurn s = sequencerStep s) ∧
    (s.status.busy = false → sequencerTurn s = .next s)

/-- A step is refused for its configuration exactly when one of these holds. The spec has these refused: misaligned or
colliding display-controller registers, the coefficient banks included (10_state.md R51, 20_memory.md R77,
92_eei_decisions.md D28, D36); overlapping fields of POST_PLL_CTRL (40_pll.md R155); colliding HDMI-block registers and
overlapping bits or fields of the composite byte and the timing words (93_implementation_defined.md U8). That the model
refuses, for the rest, what breaks a constraint of the spec is its own reading: fields that leave their byte or word, no
poll (40_pll.md R162), masks that are not one-hot (00_scope.md R8), PLANE_OFF (10_state.md R53) and equal swizzle numbers
(42_colour.md R215) by log 12, constants by log 22; and so are the HDMI-block registers that there are under a TX_W other
than the default (log 11). -/
def Obligations.RefusedConfigurations : Prop :=
  ∀ (s : State) (c : Config) (k : Constants) (l : DcLayout) (composite : List Nat) (words : List (List (Nat × Nat))),
    c = s.cfg → k = c.consts → l = c.dcLayout →
    composite = [c.tctl.enable, c.tctl.interlace, c.tctl.hsync, c.tctl.vsync] →
    words = [[(l.active, 15), (l.total, 15)], [(l.syncStart, 15), (l.syncEnd, 15), (l.plus, 1), (l.polarity, 1)]] →
    (step s = .refused .invalidConfiguration ↔
      (∃ o ∈ dcOffsets c, o % 4 ≠ 0) ∨ ¬ (dcOffsets c).Nodup ∨ ¬ (txOffsets c).Nodup ∨
      (c.postEnShift < c.refclkShift + 4 ∧ c.refclkShift < c.postEnShift + 3) ∨
      (0x07#8 <<< c.postEnShift) &&& c.postPdMask ≠ 0 ∨ (0x0F#8 <<< c.refclkShift) &&& c.postPdMask ≠ 0 ∨
      ¬ composite.Nodup ∨ (∃ p ∈ composite, 8 ≤ p) ∨
      (∃ fields ∈ words, ¬ fields.Pairwise (fun a b => a.1 + a.2 ≤ b.1 ∨ b.1 + b.2 ≤ a.1)) ∨
      (∃ fields ∈ words, ∃ f ∈ fields, 32 < f.1 + f.2) ∨
      c.nPollMax = 0 ∨ (∀ b < 8, c.prePdMask ≠ 1#8 <<< b) ∨ (∀ b < 8, c.postPdMask ≠ 1#8 <<< b) ∨
      c.planeOff[0] ≠ 0 ∨ c.planeOff[1] ≠ 4 ∨ 4 < c.planeOff.toList.dedup.length ∨
      ¬ [c.swizzleCode.argb, c.swizzleCode.abgr, c.swizzleCode.rgba, c.swizzleCode.bgra].Nodup ∨
      k.nPanel ≠ 2 ∨ k.nLayer ≠ 6 ∨ k.nCursor ≠ 2 ∨ k.nPost ≠ 6 ∨ k.nCoefEntry ≠ 16 ∨ k.nCoefReg ≠ 10 ∨
      ¬ (k.postThr[0] < k.postThr[1] ∧ k.postThr[1] < k.postThr[2] ∧ k.postThr[2] < k.postThr[3] ∧
        k.postThr[3] < k.postThr[4] ∧ k.postThr[4] < k.postThr[5]) ∨
      k.quantumHi = 0 ∨ k.quantumLo = 0 ∨ k.fracDivisor = 0 ∨ 8 ≤ k.lockBit ∨
      2 ^ 26 ≤ (k.quantumHi - 1) * k.fracMul / k.fracDivisor ∨ 2 ^ 26 ≤ (k.quantumLo - 1) * k.fracMul / k.fracDivisor)

/-- 60_exceptions.md R252: a command issued while BUSY sets ERR.CMD_BUSY and changes nothing else, and so does any word,
legal or not, that the host writes to CMD. -/
def Obligations.BusyEngineDiscardsCommands : Prop :=
  ∀ s : State, s.status.busy = true →
    (∀ i, exec i s = .next { s with err := { s.err with cmdBusy := true } }) ∧
    (∀ w, issueWord w s = .next { s with err := { s.err with cmdBusy := true } })

/-- 60_exceptions.md R251: an illegal word written to CMD while idle sets ERR.ILLEGAL_CMD, DONE and FAIL, and changes
nothing else. -/
def Obligations.IllegalWordOnlyReports : Prop :=
  ∀ (s : State) (w : Word) (r : Reject), configValid s.cfg = true → s.aboutTo (.host (.wr 0x00 w)) →
    s.status.busy = false → decodeWord w = .reject r →
    step s = .next { s.inputTaken with
      err := { s.err with illegalCmd := true }
      status := { s.status with done := true, fail := true } }

/-- 60_exceptions.md R253: VT.DC with a SEL of 2 or more and CSC.LOAD with a SEL of 6 or more, issued while idle, set
ERR.BAD_OPERAND, DONE and FAIL, and change nothing else. -/
def Obligations.OperandOutOfRangeOnlyReports : Prop :=
  ∀ (s : State) (sel : Byte), configValid s.cfg = true → s.status.busy = false →
    (2 ≤ sel.toNat → exec (.vtDc sel) s = .next { s with
      err := { s.err with badOperand := true }
      status := { s.status with done := true, fail := true } }) ∧
    (6 ≤ sel.toNat → exec (.cscLoad sel) s = .next { s with
      err := { s.err with badOperand := true }
      status := { s.status with done := true, fail := true } })

/-! ## System family -/

/-- 43_system.md R241: NOP completes at acceptance; beside CMD and the latches it sets DONE and clears FAIL. While BUSY it
raises CmdBusy instead. -/
def Obligations.NopCompletes : Prop :=
  ∀ s : State,
    (s.status.busy = false →
      exec .nop s = .next { s with
        cmd := 0x00000000
        latch := s.snapshot 0x00 0
        status := { s.status with done := true, fail := false } }) ∧
    (s.status.busy = true → exec .nop s = .next { s with err := { s.err with cmdBusy := true } })

/-- 43_system.md R243: CLRERR completes at acceptance; beside CMD and the latches it clears the six ERR bits, sets DONE
and clears FAIL. While BUSY it clears no ERR bit and raises CmdBusy instead. -/
def Obligations.ClrerrCompletes : Prop :=
  ∀ s : State,
    (s.status.busy = false →
      exec .clrerr s = .next { s with
        cmd := 0x0000007F
        latch := s.snapshot 0x7F 0
        status := { s.status with done := true, fail := false }
        err := { illegalCmd := false, cmdBusy := false, badOperand := false, badFormat := false,
                 lockTimeoutPre := false, lockTimeoutPost := false } }) ∧
    (s.status.busy = true → exec .clrerr s = .next { s with err := { s.err with cmdBusy := true } })

/-! ## PLL family -/

/-- 40_pll.md R131, R132: PLL.SOLVEPRE is accepted, and its one step writes the pre-PLL results and FRAC_OVF from the
constants of the configuration and retires; nothing else changes. The constants of 00_scope.md R7 are the numbers of
R132. -/
def Obligations.SolvePreCompletes : Prop :=
  ∀ (s : State) (k : Constants) (r q rem fr : Nat), s.status.busy = false → k = s.cfg.consts → r = s.rate.toNat →
    q = (if r > k.rateSplit then k.quantumHi else k.quantumLo) → rem = r % q →
    fr = (if rem ≠ 0 then rem * k.fracMul / k.fracDivisor else 0) →
    (∃ t, exec .pllSolvepre s = .next t ∧
      t = { s with
        cmd := 0x00000001
        latch := s.snapshot 0x01 0
        status := { s.status with busy := true, done := false, fail := false, fracOvf := false }
        seqStep := 0x01 } ∧
      sequencerRun 1 t = .next { t with
        pre := { prediv := k.prePrediv, fbdiv := BitVec.ofNat 16 (r / q), fracEn := decide (rem ≠ 0),
                 fracDiv := BitVec.ofNat 26 fr, divset := if r > k.rateSplit then s.cfg.divsetHi else s.cfg.divsetLo }
        status := { t.status with busy := false, done := true, fracOvf := decide (fr > 0xFFFFFF) }
        seqStep := 0 }) ∧
    (k = {} → k.rateSplit = 30000000 ∧ k.quantumHi = 3000000 ∧ k.quantumLo = 1000000 ∧ k.fracMul = 0xFFFFFF ∧
      k.fracDivisor = 1000000 ∧ k.prePrediv = 1)

/-- 40_pll.md R133, R134, R135: with the constants of 00_scope.md R7 the pre-divider is 1, the branch test is strict, the
results hold the exact quotient and fraction, and the fraction stays in the ranges of R135. The ranges are the spec's
own inference (R135). -/
def Obligations.FractionRanges : Prop :=
  ∀ (c : Config) (rate : Word) (r q : Nat) (p : PreResult), c.consts = {} → r = rate.toNat →
    q = (if r > 30000000 then 3000000 else 1000000) → p = solvePre c r →
    p.prediv = 1 ∧ p.fbdiv.toNat = r / q ∧ p.fbdiv.toNat ≤ 1431 ∧ (p.fracEn = true ↔ r % q ≠ 0) ∧
    p.fracDiv.toNat = (if r % q ≠ 0 then r % q * 16777215 / 1000000 else 0) ∧
    (r ≤ 30000000 → p.fracDiv.toNat ≤ 0xFFFFEE) ∧ p.fracDiv.toNat ≤ 0x2FFFFEC ∧
    (r > 30000000 → (p.fracDiv.toNat > 0xFFFFFF ↔ r % q > 1000000)) ∧
    (p.fracEn = true → 16 ≤ p.fracDiv.toNat)

/-- 40_pll.md R139, R140: PLL.SOLVEPOST is accepted, and its one step selects the first entry whose threshold is at least
the rate, or the last real entry with OOR, writes its fields and retires; nothing else changes. -/
def Obligations.SolvePostCompletes : Prop :=
  ∀ (s : State) (i : Fin 6) (thr : Vector Word 6), configValid s.cfg = true → s.status.busy = false →
    thr = s.cfg.consts.postThr → (∀ j : Fin 6, j < i → thr[j] < s.rate) → (s.rate ≤ thr[i] ∨ i = 5) →
    ∃ t, exec .pllSolvepost s = .next t ∧
      t = { s with
        cmd := 0x00000002
        latch := s.snapshot 0x02 0
        status := { s.status with busy := true, done := false, fail := false, oor := false }
        seqStep := 0x02 } ∧
      sequencerRun 1 t = .next { t with
        post := { sel := BitVec.ofNat 3 i.val, thresh := thr[i], prediv := s.cfg.postTab[i].prediv,
                  fbdiv := s.cfg.postTab[i].fbdiv, postdiv := s.cfg.postTab[i].postdiv,
                  postdivEn := s.cfg.postTab[i].postdivEn }
        status := { t.status with busy := false, done := true, oor := decide (s.rate > thr[5]) }
        seqStep := 0 }

/-- 40_pll.md R142: the entry selected, as a function of the rate, with the thresholds of 00_scope.md R7. The table is
the spec's own inference from R140. -/
def Obligations.PostSelectionTable : Prop :=
  ∀ (c : Config) (r : Word), c.consts = {} →
    (solvePost c r.toNat).sel.toNat =
      (if r.toNat ≤ 25200000 then 0
       else if r.toNat ≤ 27000000 then 1
       else if r.toNat ≤ 33750000 then 2
       else if r.toNat ≤ 49000000 then 3
       else if r.toNat ≤ 241700000 then 4
       else 5) ∧
    (postOutOfRange c.consts r.toNat = true ↔ 297000000 < r.toNat)

/-- 40_pll.md R144 to R150, R155, R156: PLL.PROGRAM is accepted, and its nineteen steps make the 22 accesses of R145
in order and retire; the registers end with the values of R145, every other HDMI-block register reads as before, and
nothing else changes. That the last byte carries the postdiv-enable field and clears power-down is the spec's own
reading (R155), and so are the invariants of R156. -/
def Obligations.ProgramCompletes : Prop :=
  ∀ (s : State) (p0 pC ctrl : Byte), configValid s.cfg = true → s.status.busy = false →
    p0 = (s.memRead .tx (txByteOffset s.cfg 0x00)).setWidth 8 →
    pC = (s.memRead .tx (txByteOffset s.cfg 0x0C)).setWidth 8 →
    ctrl = (((s.post.postdivEn &&& 0x07) <<< s.cfg.postEnShift) ||| ((s.cfg.refclkSel &&& 0x0F) <<< s.cfg.refclkShift))
      &&& ~~~s.cfg.postPdMask →
    ∃ t u, exec .pllProgram s = .next t ∧
      t = { s with
        cmd := 0x00000003
        latch := s.snapshot 0x03 0
        status := { s.status with busy := true, done := false, fail := false, preLocked := false, postLocked := false }
        seqStep := 0x03 } ∧
      sequencerRun 19 t = .next u ∧
      u = { t with
        status := { t.status with busy := false, done := true }
        seqStep := 0
        tx := u.tx
        history := s.history ++
          [ txReadEvent s.cfg 0x03 0x00 (s.memRead .tx (txByteOffset s.cfg 0x00)),
            txWriteEvent s.cfg 0x03 0x00 (p0 ||| s.cfg.prePdMask),
            txReadEvent s.cfg 0x04 0x0C (s.memRead .tx (txByteOffset s.cfg 0x0C)),
            txWriteEvent s.cfg 0x04 0x0C (pC ||| s.cfg.postPdMask),
            txWriteEvent s.cfg 0x05 0x01 s.pre.prediv,
            txWriteEvent s.cfg 0x06 0x02 (s.pre.fbdiv.extractLsb' 0 8),
            txWriteEvent s.cfg 0x07 0x03 (s.pre.fbdiv.extractLsb' 8 8),
            txWriteEvent s.cfg 0x08 0x04 (if s.pre.fracEn then 0x01 else 0x00),
            txWriteEvent s.cfg 0x09 0x05 (s.pre.fracDiv.extractLsb' 0 8),
            txWriteEvent s.cfg 0x0A 0x06 (s.pre.fracDiv.extractLsb' 8 8),
            txWriteEvent s.cfg 0x0B 0x07 (s.pre.fracDiv.extractLsb' 16 8),
            txWriteEvent s.cfg 0x0C 0x08 (s.pre.divset.extractLsb' 0 8),
            txWriteEvent s.cfg 0x0D 0x09 (s.pre.divset.extractLsb' 8 8),
            txWriteEvent s.cfg 0x0E 0x0A (s.pre.divset.extractLsb' 16 8),
            txWriteEvent s.cfg 0x0F 0x0B (s.pre.divset.extractLsb' 24 8),
            txReadEvent s.cfg 0x10 0x00 ((p0 ||| s.cfg.prePdMask).setWidth 32),
            txWriteEvent s.cfg 0x10 0x00 (p0 &&& ~~~s.cfg.prePdMask),
            txWriteEvent s.cfg 0x11 0x0D s.post.prediv,
            txWriteEvent s.cfg 0x12 0x0E (s.post.fbdiv.extractLsb' 0 8),
            txWriteEvent s.cfg 0x13 0x0F (s.post.fbdiv.extractLsb' 8 8),
            txWriteEvent s.cfg 0x14 0x10 s.post.postdiv,
            txWriteEvent s.cfg 0x15 0x0C ctrl ] } ∧
      (∀ cell ∈ ([ (0x00, p0 &&& ~~~s.cfg.prePdMask), (0x01, s.pre.prediv), (0x02, s.pre.fbdiv.extractLsb' 0 8),
          (0x03, s.pre.fbdiv.extractLsb' 8 8), (0x04, if s.pre.fracEn then 0x01 else 0x00),
          (0x05, s.pre.fracDiv.extractLsb' 0 8), (0x06, s.pre.fracDiv.extractLsb' 8 8),
          (0x07, s.pre.fracDiv.extractLsb' 16 8), (0x08, s.pre.divset.extractLsb' 0 8),
          (0x09, s.pre.divset.extractLsb' 8 8), (0x0A, s.pre.divset.extractLsb' 16 8),
          (0x0B, s.pre.divset.extractLsb' 24 8), (0x0C, ctrl), (0x0D, s.post.prediv),
          (0x0E, s.post.fbdiv.extractLsb' 0 8), (0x0F, s.post.fbdiv.extractLsb' 8 8),
          (0x10, s.post.postdiv) ] : List (Nat × Byte)),
        u.memRead .tx (txByteOffset s.cfg cell.1) = cell.2.setWidth 32) ∧
      (∀ off, (∀ n, n ≤ 0x10 → off ≠ txByteOffset s.cfg n) → u.memRead .tx off = s.memRead .tx off)

/-- 40_pll.md R159 to R162: PLL.WAITLOCK is accepted; when the oracle's answers fail `m` times and then report lock,
and then fail `n` times and report lock, both counts below N_POLL_MAX, it makes m + 1 reads of PRE_PLL_LOCK and n + 1
of POST_PLL_LOCK and retires with both lock flags; nothing else changes. The zeros in bits 31:8 of a recorded lock
read are the model's choice (log 7). -/
def Obligations.WaitlockCompletes : Prop :=
  ∀ (s : State) (m n : Nat), configValid s.cfg = true → s.status.busy = false →
    m < s.cfg.nPollMax → n < s.cfg.nPollMax →
    (∀ k < m, (s.lockAnswerAt k).getLsbD s.cfg.consts.lockBit = false) →
    (s.lockAnswerAt m).getLsbD s.cfg.consts.lockBit = true →
    (∀ k < n, (s.lockAnswerAt (m + 1 + k)).getLsbD s.cfg.consts.lockBit = false) →
    (s.lockAnswerAt (m + 1 + n)).getLsbD s.cfg.consts.lockBit = true →
    ∃ t, exec .pllWaitlock s = .next t ∧
      t = { s with
        cmd := 0x00000004
        latch := s.snapshot 0x04 0
        status := { s.status with busy := true, done := false, fail := false, preLocked := false, postLocked := false }
        pollcnt := 0
        seqStep := 0x16 } ∧
      sequencerRun (m + 1 + (n + 1)) t = .next { t.afterAnswers (m + 1 + (n + 1)) with
        status := { t.status with busy := false, done := true, preLocked := true, postLocked := true }
        pollcnt := n
        seqStep := 0
        history := s.history
          ++ (List.range (m + 1)).map (fun k => lockEvent s.cfg 0x16 0x11 (s.lockAnswerAt k))
          ++ (List.range (n + 1)).map (fun k => lockEvent s.cfg 0x17 0x12 (s.lockAnswerAt (m + 1 + k))) }

/-- 60_exceptions.md R255, R256 and 40_pll.md R160, R163: when N_POLL_MAX answers in a row do not report lock, the
wait on the pre-PLL ends in LockTimeoutPre after exactly N_POLL_MAX reads of PRE_PLL_LOCK; nothing else changes, so no
register is rolled back and POST_PLL_LOCK is not read. The zeros in bits 31:8 of a recorded lock read are the model's
choice (log 7). -/
def Obligations.WaitlockPreTimeout : Prop :=
  ∀ s t : State, configValid s.cfg = true → s.status.busy = false → exec .pllWaitlock s = .next t →
    (∀ k < s.cfg.nPollMax, (s.lockAnswerAt k).getLsbD s.cfg.consts.lockBit = false) →
    sequencerRun s.cfg.nPollMax t = .next { t.afterAnswers s.cfg.nPollMax with
      err := { s.err with lockTimeoutPre := true }
      faultStep := 0x16
      seqStep := 0
      status := { t.status with busy := false, done := true, fail := true }
      pollcnt := s.cfg.nPollMax
      history := s.history
        ++ (List.range s.cfg.nPollMax).map (fun k => lockEvent s.cfg 0x16 0x11 (s.lockAnswerAt k)) }

/-- 60_exceptions.md R255, R257 and 40_pll.md R161, R163: when the pre-PLL locks after `m` failures and then
N_POLL_MAX answers in a row do not report lock, the wait ends in LockTimeoutPost, and PRE_LOCKED stays 1. The zeros in
bits 31:8 of a recorded lock read are the model's choice (log 7). -/
def Obligations.WaitlockPostTimeout : Prop :=
  ∀ (s t : State) (m : Nat), configValid s.cfg = true → s.status.busy = false → exec .pllWaitlock s = .next t →
    m < s.cfg.nPollMax →
    (∀ k < m, (s.lockAnswerAt k).getLsbD s.cfg.consts.lockBit = false) →
    (s.lockAnswerAt m).getLsbD s.cfg.consts.lockBit = true →
    (∀ k < s.cfg.nPollMax, (s.lockAnswerAt (m + 1 + k)).getLsbD s.cfg.consts.lockBit = false) →
    sequencerRun (m + 1 + s.cfg.nPollMax) t = .next { t.afterAnswers (m + 1 + s.cfg.nPollMax) with
      err := { s.err with lockTimeoutPost := true }
      faultStep := 0x17
      seqStep := 0
      status := { t.status with busy := false, done := true, fail := true, preLocked := true }
      pollcnt := s.cfg.nPollMax
      history := s.history
        ++ (List.range (m + 1)).map (fun k => lockEvent s.cfg 0x16 0x11 (s.lockAnswerAt k))
        ++ (List.range s.cfg.nPollMax).map (fun k => lockEvent s.cfg 0x17 0x12 (s.lockAnswerAt (m + 1 + k))) }

/-- 40_pll.md R165: PLL.CONFIGURE is accepted; its 21 non-polling steps solve both PLLs for the latched rate and write
the registers of R145, and when the oracle's answers report lock within the budget it retires with both lock flags;
the other HDMI-block registers read as before, and nothing else but the history changes. The value of POST_PLL_CTRL is
the spec's own reading (R155). -/
def Obligations.ConfigureCompletes : Prop :=
  ∀ (s : State) (m n : Nat) (pre : PreResult) (post : PostResult), configValid s.cfg = true → s.status.busy = false →
    m < s.cfg.nPollMax → n < s.cfg.nPollMax →
    (∀ k < m, (s.lockAnswerAt k).getLsbD s.cfg.consts.lockBit = false) →
    (s.lockAnswerAt m).getLsbD s.cfg.consts.lockBit = true →
    (∀ k < n, (s.lockAnswerAt (m + 1 + k)).getLsbD s.cfg.consts.lockBit = false) →
    (s.lockAnswerAt (m + 1 + n)).getLsbD s.cfg.consts.lockBit = true →
    pre = solvePre s.cfg s.rate.toNat → post = solvePost s.cfg s.rate.toNat →
    ∃ t u, exec .pllConfigure s = .next t ∧
      t = { s with
        cmd := 0x00000005
        latch := s.snapshot 0x05 0
        status := { busy := true, done := false, fail := false, oor := false, fracOvf := false, preLocked := false,
                    postLocked := false }
        pollcnt := 0
        seqStep := 0x01 } ∧
      sequencerRun (21 + (m + 1 + (n + 1))) t = .next u ∧
      u = { t.afterAnswers (m + 1 + (n + 1)) with
        pre := pre
        post := post
        status := { busy := false, done := true, fail := false, oor := decide (s.rate > s.cfg.consts.postThr[5]),
                    fracOvf := decide (pre.fracDiv.toNat > 0xFFFFFF), preLocked := true, postLocked := true }
        pollcnt := n
        seqStep := 0
        tx := u.tx
        history := u.history } ∧
      (∀ cell ∈ ([ (0x00, (s.memRead .tx (txByteOffset s.cfg 0x00)).setWidth 8 &&& ~~~s.cfg.prePdMask),
          (0x01, pre.prediv), (0x02, pre.fbdiv.extractLsb' 0 8),
          (0x03, pre.fbdiv.extractLsb' 8 8), (0x04, if pre.fracEn then 0x01 else 0x00),
          (0x05, pre.fracDiv.extractLsb' 0 8), (0x06, pre.fracDiv.extractLsb' 8 8),
          (0x07, pre.fracDiv.extractLsb' 16 8), (0x08, pre.divset.extractLsb' 0 8),
          (0x09, pre.divset.extractLsb' 8 8), (0x0A, pre.divset.extractLsb' 16 8),
          (0x0B, pre.divset.extractLsb' 24 8), (0x0C, postCtrlByte s.cfg post.postdivEn), (0x0D, post.prediv),
          (0x0E, post.fbdiv.extractLsb' 0 8), (0x0F, post.fbdiv.extractLsb' 8 8),
          (0x10, post.postdiv) ] : List (Nat × Byte)),
        u.memRead .tx (txByteOffset s.cfg cell.1) = cell.2.setWidth 32) ∧
      (∀ off, (∀ n, n ≤ 0x10 → off ≠ txByteOffset s.cfg n) → u.memRead .tx off = s.memRead .tx off)

/-- 40_pll.md R166: PLL.CONFIGURE and the sequence PLL.SOLVEPRE, PLL.SOLVEPOST, PLL.PROGRAM, PLL.WAITLOCK, each run to
its end and the last for `n` sequencer turns, leave states that differ at most in the value CMD reads back and the
latches behind it. R166 is the spec's own inference; the CMD and latch values are the model's log 1. -/
def Obligations.ConfigureEqualsItsParts : Prop :=
  ∀ (s : State) (n : Nat), s.status.busy = false →
    ∃ a b p w c, commandRun .pllSolvepre 1 s = .next a ∧ commandRun .pllSolvepost 1 a = .next b ∧
      commandRun .pllProgram 19 b = .next p ∧ commandRun .pllWaitlock n p = .next w ∧
      commandRun .pllConfigure (21 + n) s = .next c ∧ w = { c with cmd := w.cmd, latch := w.latch }

/-- 70_reset_and_hazards.md R320 and 40_pll.md R167: whatever the oracle answers, a running command ends within its
step list plus 2 * N_POLL_MAX steps, with BUSY = 0, DONE = 1 and STEP = 0. R167 is the spec's own inference. -/
def Obligations.RunningCommandEnds : Prop :=
  ∀ s : State, Consistent s → s.status.busy = true →
    ∃ n t, n ≤ (stepList s.cfg s.latch.op).length + 2 * s.cfg.nPollMax ∧ sequencerRun n s = .next t ∧
      t.status.busy = false ∧ t.status.done = true ∧ t.seqStep = 0

/-! ## Timing family -/

/-- 41_timing.md R181 to R186: VT.TX is accepted, and its steps write the composite byte and the external-timing bytes,
low part first, and retire; every other HDMI-block register reads as before, and nothing else changes. With the default
TX_W these are the fourteen bytes of R186. The reading of sync delay, the positions and the byte/pair split are the
spec's own, from general knowledge (log 18); the list under another TX_W is the model's (log 11). -/
def Obligations.TimingTxCompletes : Prop :=
  ∀ (s : State) (m : Mode) (w : TxWidths) (tctl : Byte) (hdelay vdelay : Half) (bytes : List (Nat × Byte)),
    configValid s.cfg = true → s.status.busy = false → w = s.cfg.txWidth → m = s.mode →
    tctl = (1#8 <<< s.cfg.tctl.enable) ||| ((if m.flags.getLsbD 2 then 1#8 else 0#8) <<< s.cfg.tctl.interlace)
      ||| ((if m.flags.getLsbD 0 then 1#8 else 0#8) <<< s.cfg.tctl.hsync)
      ||| ((if m.flags.getLsbD 1 then 1#8 else 0#8) <<< s.cfg.tctl.vsync) →
    hdelay = (match s.cfg.hdelay with
      | .totalMinusStart => m.htotal - m.hsyncStart
      | .startMinusDisplay => m.hsyncStart - m.hdisplay
      | .other k => Config.otherSyncDelay k #v[m.hdisplay, m.hsyncStart, m.hsyncEnd, m.htotal]
          #v[m.vdisplay, m.vsyncStart, m.vsyncEnd, m.vtotal] m.flags) →
    vdelay = (match s.cfg.vdelay with
      | .totalMinusStart => m.vtotal - m.vsyncStart
      | .startMinusDisplay => m.vsyncStart - m.vdisplay
      | .other k => Config.otherSyncDelay k #v[m.hdisplay, m.hsyncStart, m.hsyncEnd, m.htotal]
          #v[m.vdisplay, m.vsyncStart, m.vsyncEnd, m.vtotal] m.flags) →
    bytes = (0x20, tctl) :: (fieldBytes w.htotal 0x21 0x22 m.htotal ++ fieldBytes w.hblank 0x23 0x24 (m.htotal - m.hdisplay)
      ++ fieldBytes w.hdelay 0x25 0x26 hdelay ++ fieldBytes w.hduration 0x27 0x28 (m.hsyncEnd - m.hsyncStart)
      ++ fieldBytes w.vtotal 0x29 0x2A m.vtotal ++ fieldBytes w.vblank 0x2B 0x1D (m.vtotal - m.vdisplay)
      ++ fieldBytes w.vdelay 0x2C 0x1E vdelay ++ fieldBytes w.vduration 0x2D 0x1F (m.vsyncEnd - m.vsyncStart)) →
    ∃ t u, exec .vtTx s = .next t ∧
      t = { s with
        cmd := 0x00000010
        latch := s.snapshot 0x10 0
        status := { s.status with busy := true, done := false, fail := false }
        seqStep := 0x20 } ∧
      sequencerRun bytes.length t = .next u ∧
      u = { t with
        status := { t.status with busy := false, done := true }
        seqStep := 0
        tx := u.tx
        history := s.history ++ bytes.map (fun cell => txWriteEvent s.cfg (BitVec.ofNat 8 cell.1) cell.1 cell.2) } ∧
      (∀ cell ∈ bytes, u.memRead .tx (txByteOffset s.cfg cell.1) = cell.2.setWidth 32) ∧
      (∀ off, (∀ cell ∈ bytes, off ≠ txByteOffset s.cfg cell.1) → u.memRead .tx off = s.memRead .tx off)

/-- 41_timing.md R183, with its default bit positions: bit 0 is 1, bit 1 interlace, bit 2 and bit 3 the sync
polarities, bits 7:4 are 0. The positions are the spec's own, from general knowledge (log 18). -/
def Obligations.CompositeByteBits : Prop :=
  ∀ (c : Config) (m : Mode), c.tctl = {} →
    timingCtlByte c m = (0#4 ++ BitVec.ofBool (m.flags.getLsbD 1) ++ BitVec.ofBool (m.flags.getLsbD 0)
      ++ BitVec.ofBool (m.flags.getLsbD 2) ++ 1#1)

/-- 41_timing.md R184 and 00_scope.md R8: the step list of VT.TX has the high register of a field exactly when TX_W
makes it a pair, and with the default TX_W it is 0x20 to 0x2D. The split is the spec's own, from general knowledge
(log 18); what TX_W does to the step list, 0x1D to 0x1F for the high parts of vertical pairs, is the model's reading
(log 11). -/
def Obligations.TimingStepsFollowTxWidth : Prop :=
  ∀ c : Config,
    (c.txWidth = {} → stepList c 0x10 = (List.range 14).map (fun k => BitVec.ofNat 8 (0x20 + k))) ∧
    (0x22 ∈ stepList c 0x10 ↔ c.txWidth.htotal = .pair) ∧ (0x24 ∈ stepList c 0x10 ↔ c.txWidth.hblank = .pair) ∧
    (0x26 ∈ stepList c 0x10 ↔ c.txWidth.hdelay = .pair) ∧ (0x28 ∈ stepList c 0x10 ↔ c.txWidth.hduration = .pair) ∧
    (0x2A ∈ stepList c 0x10 ↔ c.txWidth.vtotal = .pair) ∧ (0x1D ∈ stepList c 0x10 ↔ c.txWidth.vblank = .pair) ∧
    (0x1E ∈ stepList c 0x10 ↔ c.txWidth.vdelay = .pair) ∧ (0x1F ∈ stepList c 0x10 ↔ c.txWidth.vduration = .pair)

/-- 41_timing.md R192, R193, R195: VT.DC of a panel is accepted, and its four steps write the four timing words of
that panel and retire; every other display-controller register reads as before, those of the other panel among them,
and nothing else changes. The layout is the spec's own, from general knowledge (log 18). -/
def Obligations.TimingDcCompletes : Prop :=
  ∀ (s : State) (panel : Byte) (m : Mode) (l : DcLayout) (words : List (Nat × Nat × Word)), configValid s.cfg = true →
    s.status.busy = false → panel.toNat < 2 → m = s.mode → l = s.cfg.dcLayout →
    words =
      [ (0x30, s.cfg.dcOff.displayH + s.cfg.panelOff[panel.toNat]?.getD 0,
          ((m.hdisplay.setWidth 15).setWidth 32 <<< l.active) ||| ((m.htotal.setWidth 15).setWidth 32 <<< l.total)),
        (0x31, s.cfg.dcOff.displayHsync + s.cfg.panelOff[panel.toNat]?.getD 0,
          ((m.hsyncStart.setWidth 15).setWidth 32 <<< l.syncStart) ||| ((m.hsyncEnd.setWidth 15).setWidth 32 <<< l.syncEnd)
            ||| ((if l.plusValue then 1#32 else 0#32) <<< l.plus) ||| ((if m.flags.getLsbD 0 then 1#32 else 0#32) <<< l.polarity)),
        (0x32, s.cfg.dcOff.displayV + s.cfg.panelOff[panel.toNat]?.getD 0,
          ((m.vdisplay.setWidth 15).setWidth 32 <<< l.active) ||| ((m.vtotal.setWidth 15).setWidth 32 <<< l.total)),
        (0x33, s.cfg.dcOff.displayVsync + s.cfg.panelOff[panel.toNat]?.getD 0,
          ((m.vsyncStart.setWidth 15).setWidth 32 <<< l.syncStart) ||| ((m.vsyncEnd.setWidth 15).setWidth 32 <<< l.syncEnd)
            ||| ((if l.plusValue then 1#32 else 0#32) <<< l.plus) ||| ((if m.flags.getLsbD 1 then 1#32 else 0#32) <<< l.polarity)) ] →
    ∃ t u, exec (.vtDc panel) s = .next t ∧
      t = { s with
        cmd := 0x00000011#32 ||| (panel.setWidth 32 <<< 8)
        latch := s.snapshot 0x11 panel
        status := { s.status with busy := true, done := false, fail := false }
        seqStep := 0x30 } ∧
      sequencerRun 4 t = .next u ∧
      u = { t with
        status := { t.status with busy := false, done := true }
        seqStep := 0
        dc := u.dc
        history := s.history ++ words.map (fun c => dcWriteEvent s.cfg (BitVec.ofNat 8 c.1) c.2.1 c.2.2) } ∧
      (∀ c ∈ words, u.memRead .dc c.2.1 = c.2.2) ∧
      (∀ off, (∀ c ∈ words, off ≠ c.2.1) → u.memRead .dc off = s.memRead .dc off)

/-- 41_timing.md R193, R194: with the default layout, the fields of the timing words; bits 15 and 31 of the length
words are 0 and "plus" is 1. The layout is the spec's own, from general knowledge (log 18). -/
def Obligations.TimingWordFields : Prop :=
  ∀ (l : DcLayout) (a b : Half) (positive : Bool), l = {} →
    lengthWord l a b = (0#1 ++ b.extractLsb' 0 15 ++ 0#1 ++ a.extractLsb' 0 15) ∧
    syncWord l a b positive = (BitVec.ofBool positive ++ 1#1 ++ b.extractLsb' 0 15 ++ a.extractLsb' 0 15)

/-- 41_timing.md R196: for an ordered mode below 32,768 and the default layouts, what VT.TX and VT.DC write agrees.
R196 is the spec's own inference, on formulas of general knowledge (log 18). -/
def Obligations.TimingBlocksAgree : Prop :=
  ∀ (c : Config) (m : Mode) (wH wS wV wT : Word), c.tctl = {} → c.dcLayout = {} →
    c.hdelay = .totalMinusStart → c.vdelay = .totalMinusStart →
    m.hdisplay ≤ m.hsyncStart → m.hsyncStart ≤ m.hsyncEnd → m.hsyncEnd ≤ m.htotal → m.htotal.toNat < 32768 →
    m.vdisplay ≤ m.vsyncStart → m.vsyncStart ≤ m.vsyncEnd → m.vsyncEnd ≤ m.vtotal → m.vtotal.toNat < 32768 →
    wH = lengthWord c.dcLayout m.hdisplay m.htotal → wS = syncWord c.dcLayout m.hsyncStart m.hsyncEnd m.phsync →
    wV = lengthWord c.dcLayout m.vdisplay m.vtotal → wT = syncWord c.dcLayout m.vsyncStart m.vsyncEnd m.pvsync →
    (extHtotal m).toNat = (wH.extractLsb' 16 15).toNat ∧
    (extHblank m).toNat = (wH.extractLsb' 16 15).toNat - (wH.extractLsb' 0 15).toNat ∧
    (extHdelay c m).toNat = (wH.extractLsb' 16 15).toNat - (wS.extractLsb' 0 15).toNat ∧
    (extHduration m).toNat = (wS.extractLsb' 15 15).toNat - (wS.extractLsb' 0 15).toNat ∧
    (extVtotal m).toNat = (wV.extractLsb' 16 15).toNat ∧
    (extVblank m).toNat = (wV.extractLsb' 16 15).toNat - (wV.extractLsb' 0 15).toNat ∧
    (extVdelay c m).toNat = (wV.extractLsb' 16 15).toNat - (wT.extractLsb' 0 15).toNat ∧
    (extVduration m).toNat = (wT.extractLsb' 15 15).toNat - (wT.extractLsb' 0 15).toNat ∧
    (timingCtlByte c m).getLsbD 2 = wS.getLsbD 31 ∧ (timingCtlByte c m).getLsbD 3 = wT.getLsbD 31

/-! ## Colour family -/

/-- 42_colour.md R211, R214, R216: CSC.MAPFMT is accepted, and for a format key in FMT_MAP its one step writes CSC_RESULT
and retires; nothing else changes. -/
def Obligations.MapFormatCompletes : Prop :=
  ∀ (s : State) (row : FmtRow), s.status.busy = false →
    s.cfg.fmtMap.find? (fun x => decide (x.key = s.cscFormat)) = some row →
    ∃ t, exec .cscMapfmt s = .next t ∧
      t = { s with
        cmd := 0x00000020
        latch := s.snapshot 0x20 0
        status := { s.status with busy := true, done := false, fail := false }
        seqStep := 0x40 } ∧
      sequencerRun 1 t = .next { t with
        cscResult := { fmtCode := row.code, swizzle := swizzleNumber s.cfg row.swizzle, uvSwizzle := row.uvSwizzle,
                       isYuv := row.isYuv,
                       tableSel := if row.isYuv then
                           (if s.cscEncoding = 0 then 0 else if s.cscEncoding = 1 then 1 else if s.cscEncoding = 2 then 2
                            else 0)
                         else 3,
                       valid := true }
        status := { t.status with busy := false, done := true }
        seqStep := 0 }

/-- 42_colour.md R217 and 60_exceptions.md R255, R258: for a format key not in FMT_MAP, step 0x40 of CSC.MAPFMT and of
CSC.LOAD writes CSC_RESULT 0 and raises BadFormat, with FAULT_STEP 0x40; nothing else changes, so no coefficient register
is written. -/
def Obligations.UnknownFormatFaults : Prop :=
  ∀ (s t : State) (i : Instr), configValid s.cfg = true → s.status.busy = false →
    (i = .cscMapfmt ∨ ∃ slot : Byte, slot.toNat < 6 ∧ i = .cscLoad slot) →
    s.cfg.fmtMap.find? (fun x => decide (x.key = s.cscFormat)) = none → exec i s = .next t →
    sequencerRun 1 t = .next { t with
      cscResult := { fmtCode := 0, swizzle := 0, uvSwizzle := false, isYuv := false, tableSel := 0, valid := false }
      err := { s.err with badFormat := true }
      faultStep := 0x40
      seqStep := 0
      status := { t.status with busy := false, done := true, fail := true } }

/-- 42_colour.md R218 to R222 and 10_state.md R52, R53: CSC.LOAD of a layer slot is accepted, and for a YUV format its
eleven steps write CSC_RESULT and the ten coefficient registers of that slot, at COEF_OFF of the slot's kind plus
PLANE_OFF of the slot, from the table chosen, and retire; slots 0 and 1 are primary, 2 to 5 overlays. Every other
display-controller register reads as before, and nothing else changes. -/
def Obligations.LoadYuvCompletes : Prop :=
  ∀ (s : State) (slot : Byte) (row : FmtRow) (sel : BitVec 2) (tab : Vector Word 16) (coef : Vector Nat 10) (plane : Nat)
      (words : List (Nat × Nat × Word)),
    configValid s.cfg = true → s.status.busy = false → slot.toNat < 6 →
    s.cfg.fmtMap.find? (fun x => decide (x.key = s.cscFormat)) = some row → row.isYuv = true →
    sel = (if s.cscEncoding = 1 then 1 else if s.cscEncoding = 2 then 2 else 0) →
    tab = (if s.cscEncoding = 1 then s.cfg.y2r709 else if s.cscEncoding = 2 then s.cfg.y2r2020 else s.cfg.y2r601) →
    coef = (if slot.toNat < 2 then s.cfg.coefPrimary else s.cfg.coefOverlay) →
    plane = s.cfg.planeOff[slot.toNat]?.getD 0 →
    words =
      [ (0x41, coef[0] + plane, tab[1].setWidth 16 ++ tab[0].setWidth 16),
        (0x42, coef[1] + plane, tab[3].setWidth 16 ++ tab[2].setWidth 16),
        (0x43, coef[2] + plane, tab[5].setWidth 16 ++ tab[4].setWidth 16),
        (0x44, coef[3] + plane, tab[7].setWidth 16 ++ tab[6].setWidth 16),
        (0x45, coef[4] + plane, tab[8]), (0x46, coef[5] + plane, tab[9]), (0x47, coef[6] + plane, tab[10]),
        (0x48, coef[7] + plane, tab[11]), (0x49, coef[8] + plane, tab[13].setWidth 16 ++ tab[12].setWidth 16),
        (0x4A, coef[9] + plane, tab[15].setWidth 16 ++ tab[14].setWidth 16) ] →
    ∃ t u, exec (.cscLoad slot) s = .next t ∧
      t = { s with
        cmd := 0x00000021#32 ||| (slot.setWidth 32 <<< 8)
        latch := s.snapshot 0x21 slot
        status := { s.status with busy := true, done := false, fail := false }
        seqStep := 0x40 } ∧
      sequencerRun 11 t = .next u ∧
      u = { t with
        cscResult := { fmtCode := row.code, swizzle := swizzleNumber s.cfg row.swizzle, uvSwizzle := row.uvSwizzle,
                       isYuv := true, tableSel := sel, valid := true }
        status := { t.status with busy := false, done := true }
        seqStep := 0
        dc := u.dc
        history := s.history ++ words.map (fun c => dcWriteEvent s.cfg (BitVec.ofNat 8 c.1) c.2.1 c.2.2) } ∧
      (∀ c ∈ words, u.memRead .dc c.2.1 = c.2.2) ∧
      (∀ off, (∀ c ∈ words, off ≠ c.2.1) → u.memRead .dc off = s.memRead .dc off)

/-- 42_colour.md R219, R226: CSC.LOAD of a format that is not YUV performs step 0x40 only: CSC_RESULT says no table,
no display-controller register is written, and beside the slot's RGB-to-RGB bank, which becomes any value, nothing
else changes. That the bank is the slot's, and the others stay, is the model's reading (log 13). -/
def Obligations.LoadRgbWritesNoCoefficient : Prop :=
  ∀ (s : State) (slot : Byte) (row : FmtRow), configValid s.cfg = true → s.status.busy = false → slot.toNat < 6 →
    s.cfg.fmtMap.find? (fun x => decide (x.key = s.cscFormat)) = some row → row.isYuv = false →
    ∃ t u, exec (.cscLoad slot) s = .next t ∧
      t = { s with
        cmd := 0x00000021#32 ||| (slot.setWidth 32 <<< 8)
        latch := s.snapshot 0x21 slot
        status := { s.status with busy := true, done := false, fail := false }
        seqStep := 0x40 } ∧
      sequencerRun 1 t = .next u ∧
      u = { t with
        cscResult := { fmtCode := row.code, swizzle := swizzleNumber s.cfg row.swizzle, uvSwizzle := row.uvSwizzle,
                       isYuv := false, tableSel := 3, valid := true }
        status := { t.status with busy := false, done := true }
        seqStep := 0
        rgbBank := u.rgbBank } ∧
      (∀ k, k ≠ slot.toNat → u.rgbBank[k]? = t.rgbBank[k]?)

/-- 42_colour.md R225: the ten register values determine the table, for tables whose entries 0 to 7 and 12 to 15 fit
16 bits, all as signed numbers or all as unsigned ones. R225 is the spec's own inference. -/
def Obligations.CoefficientPackingInjective : Prop :=
  ∀ (ta tb : Vector Word 16),
    ((∀ k : Fin 16, k.val < 8 ∨ 12 ≤ k.val →
        ((-32768 ≤ ta[k].toInt ∧ ta[k].toInt ≤ 32767) ∧ (-32768 ≤ tb[k].toInt ∧ tb[k].toInt ≤ 32767))) ∨
     (∀ k : Fin 16, k.val < 8 ∨ 12 ≤ k.val → ta[k].toNat ≤ 65535 ∧ tb[k].toNat ≤ 65535)) →
    (∀ k < 10, coefWord ta k = coefWord tb k) → ta = tb

/-! ## Register spaces -/

/-- 20_memory.md R74: MemWrite replaces the one register it names, and every other register of every space reads as
before. -/
def Obligations.RegisterWriteReplacesOneRegister : Prop :=
  ∀ (s : State) (space other : Space) (off a : Nat) (w : Word), space ≠ .eng →
    (s.memWrite space off w).memRead space off = w ∧
    ((other ≠ space ∨ a ≠ off) → (s.memWrite space off w).memRead other a = s.memRead other a)

/-- 20_memory.md R72, R73, R82: a step adds at most two events, all under the step performed; each is to a listed
register, and no display-controller register is read. R72 is the spec's own inference. The HDMI-block registers listed
are those of 10_state.md R40 with the default TX_W; the list under another TX_W, with 0x1D to 0x1F for the high parts of
vertical pairs, is the model's (log 11). -/
def Obligations.EngineAccessesListedRegisters : Prop :=
  ∀ s t : State, Consistent s → step s = .next t →
    ∃ new, t.history = s.history ++ new ∧ new.length ≤ 2 ∧
      ∀ e ∈ new, e.step = s.seqStep ∧
        ((e.space = .tx ∧ e.address ∈ (txOffsets s.cfg).map (byteAddress s.cfg .tx)) ∨
         (e.space = .dc ∧ e.kind = .write ∧ e.address ∈ (dcOffsets s.cfg).map (byteAddress s.cfg .dc)))

/-! ## The whole machine -/

/-- The invariant of Safety.lean holds after reset. -/
def Obligations.ResetIsConsistent : Prop := Consistent State.reset

/-- Every step keeps the invariant of Safety.lean: the canonical form of both spaces, the relations of BUSY, DONE,
FAIL and STEP, the latched command, the poll bound, CSC_RESULT and the result ranges. That it holds of every state
reached is the model's claim; its clauses are the rules named in Safety.lean. -/
def Obligations.StepKeepsConsistency : Prop :=
  ∀ s t : State, Consistent s → step s = .next t → Consistent t

/-- From a consistent state no step faults, and one is refused only for a foreign write, while BUSY, to a register the
running command touches (log 14). -/
def Obligations.ConsistentStateRuns : Prop :=
  ∀ s : State, Consistent s →
    (∃ t, step s = .next t) ∨
    (step s = .refused .exclusiveWindow ∧ s.status.busy = true ∧ s.nextAgent = .outside ∧
      ((∃ index v, s.inputs.head? = some (.foreignTx index v) ∧ commandTouches s .tx (4 * index) = true) ∨
       (∃ index v, s.inputs.head? = some (.foreignDc index v) ∧ commandTouches s .dc (4 * index) = true)))

/-- 10_state.md R24, 43_system.md R243: an ERR bit goes from 1 to 0 only by the host's write of CLRERR to CMD while idle,
or by reset. -/
def Obligations.ErrBitsAreSticky : Prop :=
  ∀ (s t : State) (c : Cause), step s = .next t → s.err.has c = true → t.err.has c = false →
    s.aboutTo .reset ∨ (s.status.busy = false ∧ s.aboutTo (.host (.wr 0x00 0x0000007F)))

/-- 10_state.md R25, 60_exceptions.md R255: FAULT_STEP changes only by reset, or when a micro-step raises a fault; then it
is the number of that step, and the engine is idle with DONE, FAIL and STEP 0. -/
def Obligations.FaultStepRecordsFaultingStep : Prop :=
  ∀ s t : State, step s = .next t → t.faultStep ≠ s.faultStep →
    s.aboutTo .reset ∨
    (s.nextAgent = .sequencer ∧ s.status.busy = true ∧ t.faultStep = s.seqStep ∧ t.status.busy = false ∧
      t.status.done = true ∧ t.status.fail = true ∧ t.seqStep = 0)

/-- 10_state.md R23: PRE_LOCKED and POST_LOCKED become 1 only by a read of their lock register, made by steps 0x16 and
0x17, whose payload has the bit LOCK_BIT set (bit 0 by 00_scope.md R7). -/
def Obligations.LockFlagsNeedLockReads : Prop :=
  ∀ s t : State, step s = .next t →
    (s.status.preLocked = false → t.status.preLocked = true →
      s.nextAgent = .sequencer ∧ s.status.busy = true ∧ s.seqStep = 0x16 ∧
        (s.lockAnswerAt 0).getLsbD s.cfg.consts.lockBit = true) ∧
    (s.status.postLocked = false → t.status.postLocked = true →
      s.nextAgent = .sequencer ∧ s.status.busy = true ∧ s.seqStep = 0x17 ∧
        (s.lockAnswerAt 0).getLsbD s.cfg.consts.lockBit = true)

/-- 10_state.md R35, 20_memory.md R86: what the sequencer does does not depend on the input registers, and it writes none
of them, nor CMD, nor the latches. -/
def Obligations.RunningCommandIgnoresInputs : Prop :=
  ∀ (s t : State) (rate fmt enc : Word) (mode : Mode), sequencerTurn s = .next t →
    sequencerTurn { s with rate := rate, mode := mode, cscFormat := fmt, cscEncoding := enc } =
      .next { t with rate := rate, mode := mode, cscFormat := fmt, cscEncoding := enc } ∧
    t.rate = s.rate ∧ t.mode = s.mode ∧ t.cscFormat = s.cscFormat ∧ t.cscEncoding = s.cscEncoding ∧ t.cmd = s.cmd ∧
    t.latch = s.latch ∧ t.cfg = s.cfg

/-- 20_memory.md R70, R83: a step of the host makes no access to the HDMI block or the display controller: none enters
the event history, no register of theirs changes and no lock answer is drawn. -/
def Obligations.HostNeverTouchesForeignBlocks : Prop :=
  ∀ (s t : State) (op : HostOp), s.aboutTo (.host op) → step s = .next t →
    t.history = s.history ∧ t.tx = s.tx ∧ t.dc = s.dc ∧ t.epoch = s.epoch ∧ t.lockAnswers = s.lockAnswers ∧
    t.lockDraws = s.lockDraws

/-! ## The host interface -/

/-- 70_reset_and_hazards.md R290: after reset every index of the engine window reads 0 and every latch is 0. -/
def Obligations.ResetClearsEngine : Prop :=
  (∀ index, State.reset.windowRead index = 0) ∧
    State.reset.latch = { op := 0, sel := 0, rate := 0, mode := Mode.reset, fmt := 0, enc := 0 }

/-- 70_reset_and_hazards.md R290: a reset event in any state, BUSY or not, clears every register of the engine window and
every latch. -/
def Obligations.PlatformResetClearsEngine : Prop :=
  ∀ s : State, configValid s.cfg = true → s.aboutTo .reset →
    ∃ t, step s = .next t ∧ (∀ index, t.windowRead index = 0) ∧ t.status.busy = false ∧
      t.latch = { op := 0, sel := 0, rate := 0, mode := Mode.reset, fmt := 0, enc := 0 }

/-- 70_reset_and_hazards.md R291 as the model reads it (log 8): a reset that cuts a command short leaves the registers of
the other blocks as they were. The configuration, the event history and what is to come are not touched. -/
def Obligations.ResetDuringCommandKeepsForeignRegisters : Prop :=
  ∀ s t : State, configValid s.cfg = true → s.aboutTo .reset → s.status.busy = true → step s = .next t →
    (∀ space off, t.memRead space off = s.memRead space off) ∧ t.rgbBank = s.rgbBank ∧ t.cfg = s.cfg ∧
      t.history = s.history ∧ t.lockAnswers = s.lockAnswers ∧ t.lockDraws = s.lockDraws ∧ t.inputs = s.inputs.tail ∧
      t.turns = s.turns.tail

/-- 10_state.md R36: a host read returns the value the register holds and changes nothing of the machine. The record
of reads is the model's form (log 16). -/
def Obligations.HostReadHasNoSideEffect : Prop :=
  ∀ (s : State) (index : Nat), configValid s.cfg = true → s.aboutTo (.host (.rd index)) →
    step s = .next { s.inputTaken with observed := s.observed ++ [(index, s.windowRead index)] }

/-- 10_state.md R34, R36: an index not in the table reads 0, and a write to it, or to a read-only register, has no
effect. -/
def Obligations.ReservedAndReadOnlyIndices : Prop :=
  ∀ (s : State) (index : Nat) (v : Word),
    (0x19 ≤ index ∧ index ≤ 0x1F ∨ 0x23 ≤ index → s.windowRead index = 0 ∧ windowWrite index v s = .next s) ∧
    (1 ≤ index ∧ index ≤ 4 ∨ 6 ≤ index ∧ index ≤ 0xF ∨ index = 0x22 → windowWrite index v s = .next s)

/-- 10_state.md R27, R30 to R32, 70_reset_and_hazards.md R314: a host write to an input register, BUSY or not, is read
back cut to the bits used, and every other index reads as before. -/
def Obligations.InputRegistersKeepUsedBits : Prop :=
  ∀ (s : State) (index : Nat) (v : Word), index = 5 ∨ (0x10 ≤ index ∧ index ≤ 0x18) ∨ index = 0x20 ∨ index = 0x21 →
    ∃ t, windowWrite index v s = .next t ∧
      t.windowRead index =
        (if index = 0x18 then v &&& 0x7 else if 0x10 ≤ index ∧ index < 0x18 then v &&& 0xFFFF else v) ∧
      (∀ other, other ≠ index → t.windowRead other = s.windowRead other) ∧
      t.latch = s.latch ∧ t.tx = s.tx ∧ t.dc = s.dc ∧ t.history = s.history

/-- 10_state.md R21 to R33: the word the host reads at every index of the engine window's table, field by field. POLLCNT
is given for a count that fits its 16 bits (log 10). -/
def Obligations.WindowWordLayouts : Prop :=
  ∀ s : State,
    s.windowRead 0x00 = s.cmd ∧
    s.windowRead 0x01 = (0#24 ++ BitVec.ofBool s.status.postLocked ++ BitVec.ofBool s.status.preLocked
      ++ BitVec.ofBool s.status.fracOvf ++ BitVec.ofBool s.status.oor ++ 0#1 ++ BitVec.ofBool s.status.fail
      ++ BitVec.ofBool s.status.done ++ BitVec.ofBool s.status.busy) ∧
    s.windowRead 0x02 = (0#26 ++ BitVec.ofBool s.err.lockTimeoutPost ++ BitVec.ofBool s.err.lockTimeoutPre
      ++ BitVec.ofBool s.err.badFormat ++ BitVec.ofBool s.err.badOperand ++ BitVec.ofBool s.err.cmdBusy
      ++ BitVec.ofBool s.err.illegalCmd) ∧
    s.windowRead 0x03 = (0#16 ++ s.faultStep ++ s.seqStep) ∧
    (s.pollcnt < 65536 → (s.windowRead 0x04).toNat = s.pollcnt) ∧
    s.windowRead 0x05 = s.rate ∧
    s.windowRead 0x06 = 0#24 ++ s.pre.prediv ∧
    s.windowRead 0x07 = 0#16 ++ s.pre.fbdiv ∧
    s.windowRead 0x08 = (BitVec.ofBool s.pre.fracEn ++ 0#5 ++ s.pre.fracDiv) ∧
    s.windowRead 0x09 = s.pre.divset ∧
    s.windowRead 0x0A = 0#29 ++ s.post.sel ∧
    s.windowRead 0x0B = s.post.thresh ∧
    s.windowRead 0x0C = 0#24 ++ s.post.prediv ∧
    s.windowRead 0x0D = 0#16 ++ s.post.fbdiv ∧
    s.windowRead 0x0E = 0#24 ++ s.post.postdiv ∧
    s.windowRead 0x0F = 0#24 ++ s.post.postdivEn ∧
    s.windowRead 0x10 = 0#16 ++ s.mode.hdisplay ∧
    s.windowRead 0x11 = 0#16 ++ s.mode.hsyncStart ∧
    s.windowRead 0x12 = 0#16 ++ s.mode.hsyncEnd ∧
    s.windowRead 0x13 = 0#16 ++ s.mode.htotal ∧
    s.windowRead 0x14 = 0#16 ++ s.mode.vdisplay ∧
    s.windowRead 0x15 = 0#16 ++ s.mode.vsyncStart ∧
    s.windowRead 0x16 = 0#16 ++ s.mode.vsyncEnd ∧
    s.windowRead 0x17 = 0#16 ++ s.mode.vtotal ∧
    s.windowRead 0x18 = 0#29 ++ s.mode.flags ∧
    s.windowRead 0x20 = s.cscFormat ∧
    s.windowRead 0x21 = s.cscEncoding ∧
    s.windowRead 0x22 = (0#16 ++ BitVec.ofBool s.cscResult.valid ++ 0#1 ++ s.cscResult.tableSel
      ++ BitVec.ofBool s.cscResult.isYuv ++ BitVec.ofBool s.cscResult.uvSwizzle ++ s.cscResult.swizzle
      ++ s.cscResult.fmtCode)

/-- 30_encoding.md R120: WAIT reads STATUS, and stays the host's next statement while BUSY = 1. The record of reads is
the model's form (log 16). -/
def Obligations.WaitPollsStatus : Prop :=
  ∀ s : State, configValid s.cfg = true → s.aboutTo (.host .wait) →
    step s = .next { s with
      turns := s.turns.tail
      inputs := if s.status.busy then s.inputs else s.inputs.tail
      observed := s.observed ++ [(0x01, s.windowRead 0x01)] }

/-- The model's form (log 14) of the premise EXCLUSIVE_WINDOW, 70_reset_and_hazards.md R310: while BUSY, a foreign write
to a register the running command touches is refused; otherwise one to a lock register has no effect, and one to any
other register is made and changes that register alone. The registers touched are written out from the latched command:
those of 40_pll.md R145 and the lock registers, those of 41_timing.md R186 by TX_W (log 11), the four timing words of the
panel, the ten coefficient registers of the slot for a YUV format. -/
def Obligations.ForeignWritesKeepExclusiveWindow : Prop :=
  ∀ (s : State) (index sel : Nat) (v : Word) (c : Config) (w : TxWidths) (tx dc lock : Prop), configValid c = true →
    c = s.cfg → w = c.txWidth → sel = s.latch.sel.toNat →
    (tx ↔ ∃ n, 4 * index = txByteOffset c n ∧
      ((s.latch.op = 0x03 ∧ n ≤ 0x10) ∨ (s.latch.op = 0x04 ∧ (n = 0x11 ∨ n = 0x12)) ∨ (s.latch.op = 0x05 ∧ n ≤ 0x12) ∨
       (s.latch.op = 0x10 ∧
        (n ∈ [0x20, 0x21, 0x23, 0x25, 0x27, 0x29, 0x2B, 0x2C, 0x2D] ∨ (n = 0x22 ∧ w.htotal = .pair) ∨
         (n = 0x24 ∧ w.hblank = .pair) ∨ (n = 0x26 ∧ w.hdelay = .pair) ∨ (n = 0x28 ∧ w.hduration = .pair) ∨
         (n = 0x2A ∧ w.vtotal = .pair) ∨ (n = 0x1D ∧ w.vblank = .pair) ∨ (n = 0x1E ∧ w.vdelay = .pair) ∨
         (n = 0x1F ∧ w.vduration = .pair))))) →
    (dc ↔
      (s.latch.op = 0x11 ∧ ∃ off ∈ [c.dcOff.displayH, c.dcOff.displayHsync, c.dcOff.displayV, c.dcOff.displayVsync],
        4 * index = off + c.panelOff[sel]?.getD 0) ∨
      (s.latch.op = 0x21 ∧ ∃ row, c.fmtMap.find? (fun x => decide (x.key = s.latch.fmt)) = some row ∧ row.isYuv = true ∧
        ∃ off ∈ (if sel < 2 then c.coefPrimary else c.coefOverlay).toList,
          4 * index = off + c.planeOff[sel]?.getD 0)) →
    (lock ↔ 4 * index = txByteOffset c 0x11 ∨ 4 * index = txByteOffset c 0x12) →
    (s.aboutTo (.foreignTx index v) →
      (s.status.busy = true ∧ tx → step s = .refused .exclusiveWindow) ∧
      (¬ (s.status.busy = true ∧ tx) → lock → step s = .next s.inputTaken) ∧
      (¬ (s.status.busy = true ∧ tx) → ¬ lock →
        ∃ t, step s = .next t ∧ t = { s.inputTaken with tx := t.tx } ∧ t.memRead .tx (4 * index) = v ∧
          (∀ off, off ≠ 4 * index → t.memRead .tx off = s.memRead .tx off))) ∧
    (s.aboutTo (.foreignDc index v) →
      (s.status.busy = true ∧ dc → step s = .refused .exclusiveWindow) ∧
      (¬ (s.status.busy = true ∧ dc) →
        ∃ t, step s = .next t ∧ t = { s.inputTaken with dc := t.dc } ∧ t.memRead .dc (4 * index) = v ∧
          (∀ off, off ≠ 4 * index → t.memRead .dc off = s.memRead .dc off)))

/-! ## Constants -/

/-- 00_scope.md R7, R11: after reset the constants have the document's values, the poll times give N_POLL_MAX its default
of 101 (R8), and no step changes the configuration. -/
def Obligations.MachineHasDocumentConstants : Prop :=
  State.reset.cfg.consts =
      { nPanel := 2, nLayer := 6, nCursor := 2, rateSplit := 30000000, quantumHi := 3000000, quantumLo := 1000000,
        fracMul := 0xFFFFFF, fracDivisor := 1000000, prePrediv := 1, nPost := 6,
        postThr := #v[25200000, 27000000, 33750000, 49000000, 241700000, 297000000], postSentinel := 0,
        pollIntervalMs := 1, pollTimeoutMs := 100, lockBit := 0, nCoefEntry := 16, nCoefReg := 10 } ∧
    State.reset.cfg.nPollMax = 101 ∧ (∀ s t : State, step s = .next t → t.cfg = s.cfg)

/-! ## The host's writes as steps -/

/-- 30_encoding.md R104, R120, 10_state.md R36: when the outside moves and the host's next statement is a write, the step
is that write to the engine window, with the turn and the statement taken, whatever the index, the word and BUSY; a write
to CMD is a command issue, legal word or not. That the host's statements stand in a queue is the model's form (log 1,
log 4). -/
def Obligations.StepPerformsHostWrite : Prop :=
  ∀ (s : State) (index : Nat) (v : Word), configValid s.cfg = true → s.aboutTo (.host (.wr index v)) →
    step s = windowWrite index v s.inputTaken ∧ (index = 0x00 → step s = issueWord v s.inputTaken)
end

