-- ==== Sys2Proof/Laws/Config.lean ====
section
/-! SUPPORT. What a valid configuration gives: the poll bound, distinct offsets; and what the step lists hold. -/

namespace Sys2Proof.Machine

theorem allDistinct_iff_nodup (l : List Nat) : allDistinct l = true ↔ l.Nodup := by
  induction l with
  | nil => simp [allDistinct]
  | cons a l ih => simp [allDistinct, ih]

theorem distinctMembers_eq_dedup (l : List Nat) : distinctMembers l = l.dedup := by
  induction l with
  | nil => rfl
  | cons a l ih =>
    by_cases h : a ∈ l
    · simp [distinctMembers, h, ih]
    · simp [distinctMembers, h, ih, List.dedup_cons_of_notMem]

theorem oneHot_iff (m : Byte) : oneHotBytes.contains m = true ↔ ∃ b < 8, m = 1#8 <<< b := by
  simp only [oneHotBytes, List.contains_iff_mem, List.mem_cons, List.not_mem_nil, or_false]
  constructor
  · rintro (rfl | rfl | rfl | rfl | rfl | rfl | rfl | rfl)
    exacts [⟨0, by decide⟩, ⟨1, by decide⟩, ⟨2, by decide⟩, ⟨3, by decide⟩, ⟨4, by decide⟩, ⟨5, by decide⟩, ⟨6, by decide⟩,
      ⟨7, by decide⟩]
  · rintro ⟨b, hb, rfl⟩
    interval_cases b <;> decide

/-- The checks of a valid configuration, by name. -/
theorem configValid_iff (c : Config) : configValid c = true ↔
    pollBoundOk c = true ∧ constantsOk c.consts = true ∧ pllFieldsOk c = true ∧ txMapOk c = true ∧ dcMapOk c = true ∧
      swizzlesOk c = true := by
  simp only [configValid, Bool.and_eq_true, and_assoc]

/-- N_POLL_MAX is at least 1. -/
theorem pollBound_of_valid {c : Config} (hv : configValid c = true) : 1 ≤ c.nPollMax := by
  simpa [pollBoundOk] using ((configValid_iff c).1 hv).1

/-- The counts the tables and the step map are laid out for. -/
theorem counts_of_valid {c : Config} (hv : configValid c = true) :
    c.consts.nPanel = 2 ∧ c.consts.nLayer = 6 ∧ c.consts.nPost = 6 ∧ c.consts.nCoefReg = 10 := by
  have h := ((configValid_iff c).1 hv).2.1
  simp only [constantsOk, Bool.and_eq_true, beq_iff_eq] at h
  tauto

/-- The thresholds ascend. -/
theorem thresholds_of_valid {c : Config} (hv : configValid c = true) :
    c.consts.postThr[0] < c.consts.postThr[1] ∧ c.consts.postThr[1] < c.consts.postThr[2] ∧
      c.consts.postThr[2] < c.consts.postThr[3] ∧ c.consts.postThr[3] < c.consts.postThr[4] ∧
      c.consts.postThr[4] < c.consts.postThr[5] := by
  have h := ((configValid_iff c).1 hv).2.1
  simp only [constantsOk, Bool.and_eq_true, decide_eq_true_eq] at h
  tauto

/-- Two logical registers of the HDMI block have distinct offsets. -/
theorem txByteOffset_injective {c : Config} (hv : configValid c = true) {a b : Nat} (ha : a ∈ txRegisters c)
    (hb : b ∈ txRegisters c) (h : txByteOffset c a = txByteOffset c b) : a = b := by
  have ht := ((configValid_iff c).1 hv).2.2.2.1
  simp only [txMapOk, Bool.and_eq_true, allDistinct_iff_nodup] at ht
  exact List.inj_on_of_nodup_map ht.1.1 ha hb h

theorem mem_txRegisters_pll (c : Config) {n : Nat} (h : n ≤ 0x12) : n ∈ txRegisters c := by
  refine List.mem_append_left _ ?_
  interval_cases n <;> decide

theorem mem_txRegisters_timing {c : Config} {a : Byte} (h : a ∈ timingSteps c) : a.toNat ∈ txRegisters c :=
  List.mem_append_right _ (List.mem_map_of_mem h)

theorem dcOffsets_nodup {c : Config} (hv : configValid c = true) : (dcOffsets c).Nodup := by
  have hd := ((configValid_iff c).1 hv).2.2.2.2.1
  simp only [dcMapOk, Bool.and_eq_true, allDistinct_iff_nodup] at hd
  exact hd.1.1.1.1.2

/-- The eight timing words have distinct offsets. -/
theorem timingOffsets_nodup {c : Config} (hv : configValid c = true) : (timingOffsets c).Nodup := by
  have hd := dcOffsets_nodup hv
  simp only [dcOffsets, List.append_assoc] at hd
  exact (List.nodup_append.1 hd).1

/-- The ten coefficient registers of a slot have distinct offsets. -/
theorem bankOffsets_nodup {c : Config} (hv : configValid c = true) {s : Nat} (hs : s < 6) : (bankOffsets c s).Nodup := by
  have sub : (bankOffsets c s).Sublist (dcOffsets c) := by
    unfold dcOffsets
    interval_cases s <;>
      repeat first | exact List.sublist_append_right _ _ | refine List.sublist_append_of_sublist_left ?_
  exact sub.nodup (dcOffsets_nodup hv)

/-! Step lists. -/

/-- The steps VT.TX has when every field is a pair, which are all the steps it can have. -/
def allTimingSteps : List Byte :=
  0x20 :: ([0x21, 0x22] ++ [0x23, 0x24] ++ [0x25, 0x26] ++ [0x27, 0x28] ++ [0x29, 0x2A] ++ [0x2B, 0x1D] ++ [0x2C, 0x1E]
    ++ [0x2D, 0x1F])

theorem fieldSteps_sublist (w : FieldWidth) (low high : Byte) : (fieldSteps w low high).Sublist [low, high] := by
  cases w <;> simp [fieldSteps]

/-- Whatever TX_W, the steps of VT.TX stand in the order of the longest list. -/
theorem timingSteps_sublist (c : Config) : (timingSteps c).Sublist allTimingSteps := by
  unfold timingSteps allTimingSteps
  refine List.Sublist.cons_cons _ ?_
  iterate 7 refine List.Sublist.append ?_ (fieldSteps_sublist _ _ _)
  exact fieldSteps_sublist _ _ _

theorem mem_allTimingSteps {c : Config} {a : Byte} (h : a ∈ timingSteps c) : a ∈ allTimingSteps :=
  (timingSteps_sublist c).subset h

/-- No step occurs twice in a step list. -/
theorem stepList_nodup (c : Config) (op : Byte) : (stepList c op).Nodup := by
  unfold stepList
  split_ifs <;> first | decide | exact (timingSteps_sublist c).nodup (by decide)

/-- Coefficient steps belong to CSC.LOAD, polling steps to PLL.WAITLOCK and PLL.CONFIGURE, step 0x40 to CSC.MAPFMT and
CSC.LOAD. -/
theorem opcode_of_step {c : Config} {op a : Byte} (h : a ∈ stepList c op) :
    (a ∈ coefSteps → op = 0x21) ∧ (a = 0x16 ∨ a = 0x17 → op = 0x04 ∨ op = 0x05) ∧
      (a = 0x40 → op = 0x20 ∨ op = 0x21) := by
  unfold stepList at h
  split_ifs at h with h1 h2 h3 h4 h5 h6 h7 h8 h9
  · simp only [List.mem_singleton] at h; subst h; simp [coefSteps]
  · simp only [List.mem_singleton] at h; subst h; simp [coefSteps]
  · have := (by decide : ∀ a ∈ programSteps, a ∉ coefSteps ∧ ¬ (a = 0x16 ∨ a = 0x17) ∧ a ≠ 0x40) a h
    tauto
  · subst h4
    refine ⟨fun h' => ?_, fun _ => .inl rfl, fun h' => ?_⟩
    · revert h'; revert a; decide
    · subst h'; revert h; decide
  · subst h5
    refine ⟨fun h' => ?_, fun _ => .inr rfl, fun h' => ?_⟩
    · revert h'; revert a; decide
    · subst h'; revert h; decide
  · have := (by decide : ∀ a ∈ allTimingSteps, a ∉ coefSteps ∧ ¬ (a = 0x16 ∨ a = 0x17) ∧ a ≠ 0x40) a
      (mem_allTimingSteps h)
    tauto
  · have := (by decide : ∀ a ∈ ([0x30, 0x31, 0x32, 0x33] : List Byte),
      a ∉ coefSteps ∧ ¬ (a = 0x16 ∨ a = 0x17) ∧ a ≠ 0x40) a h
    tauto
  · subst h8
    simp only [List.mem_singleton] at h; subst h; simp [coefSteps]
  · subst h9
    refine ⟨fun _ => rfl, fun h' => ?_, fun _ => .inr rfl⟩
    revert h'; revert a; decide
  · simp at h

/-! Successors. -/

theorem following_mid {a b : Byte} {p r : List Byte} (h : a ∉ p) : following a (p ++ a :: b :: r) = some b := by
  induction p with
  | nil => simp [following]
  | cons x p ih =>
    have hx : ¬ x = a := fun e => h (by simp [e])
    have hp : a ∉ p := fun e => h (List.mem_cons_of_mem _ e)
    cases p with
    | nil => simp [following, hx]
    | cons y p =>
      have := ih hp
      simp only [List.cons_append] at this ⊢
      simp [following, hx, this]

theorem following_last {a : Byte} {p : List Byte} (h : a ∉ p) : following a (p ++ [a]) = none := by
  induction p with
  | nil => simp [following]
  | cons x p ih =>
    have hx : ¬ x = a := fun e => h (by simp [e])
    have hp : a ∉ p := fun e => h (List.mem_cons_of_mem _ e)
    cases p with
    | nil => simp [following, hx]
    | cons y p =>
      have := ih hp
      simp only [List.cons_append] at this ⊢
      simp [following, hx, this]

/-- A successor is an element of the list. -/
theorem following_mem {a b : Byte} {l : List Byte} (h : following a l = some b) : b ∈ l := by
  induction l with
  | nil => simp [following] at h
  | cons x l ih =>
    cases l with
    | nil => simp [following] at h
    | cons y l =>
      simp only [following] at h
      split at h
      · cases h; simp
      · exact List.mem_cons_of_mem _ (ih h)

/-- A successor stands one place further on. -/
theorem following_idxOf {a b : Byte} {l : List Byte} (hd : l.Nodup) (h : following a l = some b) :
    l.idxOf b = l.idxOf a + 1 := by
  induction l with
  | nil => simp [following] at h
  | cons x l ih =>
    cases l with
    | nil => simp [following] at h
    | cons y l =>
      simp only [following] at h
      have hd' := List.nodup_cons.1 hd
      split at h
      · rename_i hx
        cases h
        subst hx
        have : x ≠ b := by rintro rfl; exact hd'.1 (by simp)
        rw [List.idxOf_cons_ne _ this]
        simp
      · rename_i hx
        have hxb : x ≠ b := by rintro rfl; exact hd'.1 (following_mem h)
        rw [List.idxOf_cons_ne _ hxb, List.idxOf_cons_ne _ hx, ih hd'.2 h]

end Sys2Proof.Machine
end

