-- ==== Sys2Proof/Laws/PerInstr.lean ====
section
/-! SUPPORT. Statements made per command: the fields of its encoded word (30_encoding.md R100, R101). -/

namespace Sys2Proof.Laws.EncodeFields

/-- The word of a command carries its OP, its SEL and a zero ZERO field. -/
def Statement (i : Instr) : Prop :=
  fieldOp (encode i) = i.opcode ∧ fieldSel (encode i) = i.sel ∧ fieldZero (encode i) = 0

/-- A word put together from an OP and a SEL. -/
theorem fields_of_word (op sel : Byte) :
    fieldOp (op.setWidth 32 ||| (sel.setWidth 32 <<< 8)) = op ∧
      fieldSel (op.setWidth 32 ||| (sel.setWidth 32 <<< 8)) = sel ∧
      fieldZero (op.setWidth 32 ||| (sel.setWidth 32 <<< 8)) = 0 := by
  refine ⟨?_, ?_, ?_⟩ <;> apply BitVec.eq_of_getLsbD_eq <;> intro k hk <;>
    simp only [fieldOp, fieldSel, fieldZero, BitVec.getLsbD_extractLsb', BitVec.getLsbD_or, BitVec.getLsbD_setWidth,
      BitVec.getLsbD_shiftLeft]
  · have h₁ : k < 32 := by omega
    simp [h₁, hk]
  · have h₁ : 8 + k < 32 := by omega
    have h₂ : k < 32 := by omega
    simp [hk, h₁, h₂]
  · have h₁ : 16 + k < 32 := by omega
    have h₂ : op.getLsbD (16 + k) = false := BitVec.getLsbD_of_ge _ _ (by omega)
    have h₃ : sel.getLsbD (16 + k - 8) = false := BitVec.getLsbD_of_ge _ _ (by omega)
    simp [h₂, h₃]

theorem nop : Statement .nop := fields_of_word _ _
theorem pllSolvepre : Statement .pllSolvepre := fields_of_word _ _
theorem pllSolvepost : Statement .pllSolvepost := fields_of_word _ _
theorem pllProgram : Statement .pllProgram := fields_of_word _ _
theorem pllWaitlock : Statement .pllWaitlock := fields_of_word _ _
theorem pllConfigure : Statement .pllConfigure := fields_of_word _ _
theorem vtTx : Statement .vtTx := fields_of_word _ _
theorem vtDc (panel : Byte) : Statement (.vtDc panel) := fields_of_word _ _
theorem cscMapfmt : Statement .cscMapfmt := fields_of_word _ _
theorem cscLoad (slot : Byte) : Statement (.cscLoad slot) := fields_of_word _ _
theorem clrerr : Statement .clrerr := fields_of_word _ _

end Sys2Proof.Laws.EncodeFields
end

