-- ==== Sys2Proof/Laws/Decode.lean ====
section
/-! SUPPORT. A word is its fields (30_encoding.md R100), and what `plainCommand` can answer. -/

namespace Sys2Proof

/-- A word with a zero ZERO field is put together from its OP and SEL. -/
theorem word_of_fields {w : Word} (h : fieldZero w = 0) :
    (fieldOp w).setWidth 32 ||| ((fieldSel w).setWidth 32 <<< 8) = w := by
  apply BitVec.eq_of_getLsbD_eq
  intro k hk
  have hz : ∀ j < 16, w.getLsbD (16 + j) = false := by
    intro j hj
    have := congrArg (fun v : Half => v.getLsbD j) h
    simpa [fieldZero, hj] using this
  simp only [fieldOp, fieldSel, BitVec.getLsbD_or, BitVec.getLsbD_setWidth, BitVec.getLsbD_shiftLeft,
    BitVec.getLsbD_extractLsb']
  by_cases h1 : k < 8
  · simp [h1, hk]
  · by_cases h2 : k < 16
    · have e : 8 + (k - 8) = k := by omega
      have h3 : k - 8 < 8 := by omega
      have h4 : k - 8 < 32 := by omega
      simp [h1, hk, h3, h4, e]
    · have := hz (k - 16) (by omega)
      have e : 16 + (k - 16) = k := by omega
      rw [e] at this
      have h3 : ¬ k - 8 < 8 := by omega
      simp [h1, h3, this]

/-- A command without operand found by OP has that OP, and SEL 0. -/
theorem plainCommand_some {op : Byte} {i : Instr} (h : plainCommand op = some i) :
    i.opcode = op ∧ i.sel = 0 ∧ op ≠ 0x11 ∧ op ≠ 0x21 := by
  unfold plainCommand at h
  split_ifs at h <;> simp only [Option.some.injEq] at h <;> subst h <;> rename_i h <;> subst h <;>
    exact ⟨rfl, rfl, by decide, by decide⟩

/-- Every command without operand is found by its OP. -/
theorem plainCommand_opcode (i : Instr) (h : i.opcode ≠ 0x11 ∧ i.opcode ≠ 0x21) : plainCommand i.opcode = some i := by
  cases i <;> first | rfl | exact absurd rfl h.1 | exact absurd rfl h.2

/-- Fields that decode to a command are that command's, with ZERO 0. -/
theorem decodeFields_instr {op sel : Byte} {zero : Half} {i : Instr} (h : decodeFields op sel zero = .instr i) :
    zero = 0 ∧ i.opcode = op ∧ i.sel = sel := by
  unfold decodeFields at h
  split at h
  · cases h
  · rename_i hz
    refine ⟨by simpa using hz, ?_⟩
    split at h
    · rename_i h1
      cases h
      exact ⟨h1.symm, rfl⟩
    · split at h
      · rename_i h2
        cases h
        exact ⟨h2.symm, rfl⟩
      · split at h
        · cases h
        · rename_i j hj
          split at h
          · rename_i hs
            cases h
            obtain ⟨a, b, -, -⟩ := plainCommand_some hj
            exact ⟨a, b.trans hs.symm⟩
          · cases h

end Sys2Proof
end

