-- ==== Sys2Proof/Laws/Memory.lean ====
section
/-! SUPPORT. Laws of the register spaces: read after write, the frame of a write, and that writes keep the canonical
form. -/

namespace Sys2Proof.Machine

theorem spaceRead_spaceWrite_same (m : RegSpace) (off : Nat) (w : Word) :
    spaceRead (spaceWrite m off w) off = some w := by
  induction m with
  | nil => simp [spaceWrite, spaceRead]
  | cons cell rest ih =>
    obtain ⟨o, v⟩ := cell
    simp only [spaceWrite]
    split_ifs with h₁ h₂
    · simp [spaceRead]
    · simp [spaceRead]
    · have h₃ : ¬ o = off := fun h => h₂ h.symm
      simp [spaceRead, h₃, ih]

theorem spaceRead_spaceWrite_other (m : RegSpace) {off a : Nat} (w : Word) (h : a ≠ off) :
    spaceRead (spaceWrite m off w) a = spaceRead m a := by
  induction m with
  | nil => simp [spaceWrite, spaceRead, Ne.symm h]
  | cons cell rest ih =>
    obtain ⟨o, v⟩ := cell
    simp only [spaceWrite]
    split_ifs with h₁ h₂
    · simp [spaceRead, Ne.symm h]
    · subst h₂
      simp [spaceRead, Ne.symm h]
    · simp [spaceRead, ih]

/-- Every listed offset of a space in canonical form is above a bound below its first offset. -/
theorem spaceWf_cons {o : Nat} {v : Word} {rest : RegSpace} :
    spaceWf ((o, v) :: rest) = true ↔ (∀ c ∈ rest.head?, o < c.1) ∧ spaceWf rest = true := by
  cases rest with
  | nil => simp [spaceWf]
  | cons c rest => obtain ⟨p, w⟩ := c; simp [spaceWf]

theorem head_spaceWrite (m : RegSpace) (off : Nat) (w : Word) :
    ∀ c ∈ (spaceWrite m off w).head?, c.1 = off ∨ ∃ d ∈ m.head?, c.1 = d.1 := by
  cases m with
  | nil => simp [spaceWrite]
  | cons cell rest =>
    obtain ⟨o, v⟩ := cell
    simp only [spaceWrite]
    split_ifs <;> simp

/-- A write keeps the canonical form. -/
theorem spaceWf_spaceWrite (m : RegSpace) (off : Nat) (w : Word) (h : spaceWf m = true) :
    spaceWf (spaceWrite m off w) = true := by
  induction m with
  | nil => simp [spaceWrite, spaceWf]
  | cons cell rest ih =>
    obtain ⟨o, v⟩ := cell
    rw [spaceWf_cons] at h
    simp only [spaceWrite]
    split_ifs with h₁ h₂
    · rw [spaceWf_cons]
      exact ⟨by simpa using h₁, spaceWf_cons.2 h⟩
    · subst h₂
      exact spaceWf_cons.2 h
    · rw [spaceWf_cons]
      refine ⟨fun c hc => ?_, ih h.2⟩
      obtain hoff | ⟨d, hd, hcd⟩ := head_spaceWrite rest off w c hc
      · omega
      · have := h.1 d hd
        omega

@[simp] theorem spaceWf_reset_tx : spaceWf State.reset.tx = true := rfl

@[simp] theorem spaceWf_reset_dc : spaceWf State.reset.dc = true := rfl

/-- MemRead after MemWrite of the same register. -/
theorem State.memRead_memWrite_same (s : State) {space : Space} (off : Nat) (w : Word) (h : space ≠ .eng) :
    (s.memWrite space off w).memRead space off = w := by
  cases space with
  | eng => exact absurd rfl h
  | tx => simp [State.memWrite, State.memRead, State.space, spaceRead_spaceWrite_same]
  | dc => simp [State.memWrite, State.memRead, State.space, spaceRead_spaceWrite_same]

/-- MemWrite leaves every other register as it was. -/
theorem State.memRead_memWrite_other (s : State) {space space' : Space} {off a : Nat} (w : Word)
    (h : space' ≠ space ∨ a ≠ off) : (s.memWrite space off w).memRead space' a = s.memRead space' a := by
  cases space <;> cases space' <;> simp [State.memWrite, State.memRead, State.space]
  · rw [spaceRead_spaceWrite_other _ _ (by simpa using h)]
  · rw [spaceRead_spaceWrite_other _ _ (by simpa using h)]

/-- MemWrite keeps both spaces in canonical form. -/
theorem State.memWrite_wf (s : State) (space : Space) (off : Nat) (w : Word) (ht : spaceWf s.tx = true)
    (hd : spaceWf s.dc = true) :
    spaceWf (s.memWrite space off w).tx = true ∧ spaceWf (s.memWrite space off w).dc = true := by
  cases space with
  | eng => exact ⟨ht, hd⟩
  | tx => exact ⟨spaceWf_spaceWrite _ _ _ ht, hd⟩
  | dc => exact ⟨ht, spaceWf_spaceWrite _ _ _ hd⟩

/-- Performing an access keeps both spaces in canonical form. -/
theorem State.perform_wf (s : State) (a : Access) (ht : spaceWf s.tx = true) (hd : spaceWf s.dc = true) :
    spaceWf (s.perform a).tx = true ∧ spaceWf (s.perform a).dc = true := by
  cases a with
  | txWrite n b => exact ⟨spaceWf_spaceWrite _ _ _ ht, hd⟩
  | txModify n m b => exact ⟨spaceWf_spaceWrite _ _ _ ht, hd⟩
  | dcWrite off w => exact ⟨ht, spaceWf_spaceWrite _ _ _ hd⟩

theorem Memory.wf_iff {s : State} : Memory.wf s = true ↔ spaceWf s.tx = true ∧ spaceWf s.dc = true := by
  simp [Memory.wf]

theorem Memory.wf_memWrite {s : State} (space : Space) (off : Nat) (w : Word) (h : Memory.wf s = true) :
    Memory.wf (s.memWrite space off w) = true :=
  Memory.wf_iff.2 (State.memWrite_wf s space off w (Memory.wf_iff.1 h).1 (Memory.wf_iff.1 h).2)

theorem Memory.wf_perform {s : State} (a : Access) (h : Memory.wf s = true) : Memory.wf (s.perform a) = true :=
  Memory.wf_iff.2 (State.perform_wf s a (Memory.wf_iff.1 h).1 (Memory.wf_iff.1 h).2)

theorem Memory.wf_reset : Memory.wf State.reset = true := rfl

end Sys2Proof.Machine
end

