-- ==== Sys2Proof/Laws/State.lean ====
section
/-! SUPPORT. One lemma per field of State for each operation of Machine/Ops.lean, Machine/Colour.lean and
Machine/HostPort.lean, so that no later proof unfolds a record update. -/

namespace Sys2Proof.Machine

/-! Fields after `accept`. -/

@[simp] theorem State.accept_cfg (s : State) (w : Word) : (s.accept w).cfg = s.cfg := rfl
@[simp] theorem State.accept_cmd (s : State) (w : Word) : (s.accept w).cmd = w := rfl
@[simp] theorem State.accept_status (s : State) (w : Word) : (s.accept w).status = s.status.accepted := rfl
@[simp] theorem State.accept_err (s : State) (w : Word) : (s.accept w).err = s.err := rfl
@[simp] theorem State.accept_seqStep (s : State) (w : Word) : (s.accept w).seqStep = s.seqStep := rfl
@[simp] theorem State.accept_faultStep (s : State) (w : Word) : (s.accept w).faultStep = s.faultStep := rfl
@[simp] theorem State.accept_pollcnt (s : State) (w : Word) : (s.accept w).pollcnt = s.pollcnt := rfl
@[simp] theorem State.accept_rate (s : State) (w : Word) : (s.accept w).rate = s.rate := rfl
@[simp] theorem State.accept_pre (s : State) (w : Word) : (s.accept w).pre = s.pre := rfl
@[simp] theorem State.accept_post (s : State) (w : Word) : (s.accept w).post = s.post := rfl
@[simp] theorem State.accept_mode (s : State) (w : Word) : (s.accept w).mode = s.mode := rfl
@[simp] theorem State.accept_cscFormat (s : State) (w : Word) : (s.accept w).cscFormat = s.cscFormat := rfl
@[simp] theorem State.accept_cscEncoding (s : State) (w : Word) : (s.accept w).cscEncoding = s.cscEncoding := rfl
@[simp] theorem State.accept_cscResult (s : State) (w : Word) : (s.accept w).cscResult = s.cscResult := rfl
@[simp] theorem State.accept_latch (s : State) (w : Word) : (s.accept w).latch = latchInputs w s := rfl
@[simp] theorem State.accept_tx (s : State) (w : Word) : (s.accept w).tx = s.tx := rfl
@[simp] theorem State.accept_dc (s : State) (w : Word) : (s.accept w).dc = s.dc := rfl
@[simp] theorem State.accept_rgbBank (s : State) (w : Word) : (s.accept w).rgbBank = s.rgbBank := rfl
@[simp] theorem State.accept_lockAnswers (s : State) (w : Word) : (s.accept w).lockAnswers = s.lockAnswers := rfl
@[simp] theorem State.accept_lockDraws (s : State) (w : Word) : (s.accept w).lockDraws = s.lockDraws := rfl
@[simp] theorem State.accept_epoch (s : State) (w : Word) : (s.accept w).epoch = s.epoch := rfl
@[simp] theorem State.accept_history (s : State) (w : Word) : (s.accept w).history = s.history := rfl
@[simp] theorem State.accept_observed (s : State) (w : Word) : (s.accept w).observed = s.observed := rfl
@[simp] theorem State.accept_inputs (s : State) (w : Word) : (s.accept w).inputs = s.inputs := rfl
@[simp] theorem State.accept_turns (s : State) (w : Word) : (s.accept w).turns = s.turns := rfl

/-! Fields after `start`. -/

@[simp] theorem State.start_cfg (s : State) (first : Byte) : (s.start first).cfg = s.cfg := rfl
@[simp] theorem State.start_cmd (s : State) (first : Byte) : (s.start first).cmd = s.cmd := rfl
@[simp] theorem State.start_status (s : State) (first : Byte) : (s.start first).status = { s.status with busy := true } := rfl
@[simp] theorem State.start_err (s : State) (first : Byte) : (s.start first).err = s.err := rfl
@[simp] theorem State.start_seqStep (s : State) (first : Byte) : (s.start first).seqStep = first := rfl
@[simp] theorem State.start_faultStep (s : State) (first : Byte) : (s.start first).faultStep = s.faultStep := rfl
@[simp] theorem State.start_pollcnt (s : State) (first : Byte) : (s.start first).pollcnt = s.pollcnt := rfl
@[simp] theorem State.start_rate (s : State) (first : Byte) : (s.start first).rate = s.rate := rfl
@[simp] theorem State.start_pre (s : State) (first : Byte) : (s.start first).pre = s.pre := rfl
@[simp] theorem State.start_post (s : State) (first : Byte) : (s.start first).post = s.post := rfl
@[simp] theorem State.start_mode (s : State) (first : Byte) : (s.start first).mode = s.mode := rfl
@[simp] theorem State.start_cscFormat (s : State) (first : Byte) : (s.start first).cscFormat = s.cscFormat := rfl
@[simp] theorem State.start_cscEncoding (s : State) (first : Byte) : (s.start first).cscEncoding = s.cscEncoding := rfl
@[simp] theorem State.start_cscResult (s : State) (first : Byte) : (s.start first).cscResult = s.cscResult := rfl
@[simp] theorem State.start_latch (s : State) (first : Byte) : (s.start first).latch = s.latch := rfl
@[simp] theorem State.start_tx (s : State) (first : Byte) : (s.start first).tx = s.tx := rfl
@[simp] theorem State.start_dc (s : State) (first : Byte) : (s.start first).dc = s.dc := rfl
@[simp] theorem State.start_rgbBank (s : State) (first : Byte) : (s.start first).rgbBank = s.rgbBank := rfl
@[simp] theorem State.start_lockAnswers (s : State) (first : Byte) : (s.start first).lockAnswers = s.lockAnswers := rfl
@[simp] theorem State.start_lockDraws (s : State) (first : Byte) : (s.start first).lockDraws = s.lockDraws := rfl
@[simp] theorem State.start_epoch (s : State) (first : Byte) : (s.start first).epoch = s.epoch := rfl
@[simp] theorem State.start_history (s : State) (first : Byte) : (s.start first).history = s.history := rfl
@[simp] theorem State.start_observed (s : State) (first : Byte) : (s.start first).observed = s.observed := rfl
@[simp] theorem State.start_inputs (s : State) (first : Byte) : (s.start first).inputs = s.inputs := rfl
@[simp] theorem State.start_turns (s : State) (first : Byte) : (s.start first).turns = s.turns := rfl

/-! Fields after `complete`. -/

@[simp] theorem State.complete_cfg (s : State) : (s.complete).cfg = s.cfg := rfl
@[simp] theorem State.complete_cmd (s : State) : (s.complete).cmd = s.cmd := rfl
@[simp] theorem State.complete_status (s : State) : (s.complete).status = { s.status with done := true } := rfl
@[simp] theorem State.complete_err (s : State) : (s.complete).err = s.err := rfl
@[simp] theorem State.complete_seqStep (s : State) : (s.complete).seqStep = s.seqStep := rfl
@[simp] theorem State.complete_faultStep (s : State) : (s.complete).faultStep = s.faultStep := rfl
@[simp] theorem State.complete_pollcnt (s : State) : (s.complete).pollcnt = s.pollcnt := rfl
@[simp] theorem State.complete_rate (s : State) : (s.complete).rate = s.rate := rfl
@[simp] theorem State.complete_pre (s : State) : (s.complete).pre = s.pre := rfl
@[simp] theorem State.complete_post (s : State) : (s.complete).post = s.post := rfl
@[simp] theorem State.complete_mode (s : State) : (s.complete).mode = s.mode := rfl
@[simp] theorem State.complete_cscFormat (s : State) : (s.complete).cscFormat = s.cscFormat := rfl
@[simp] theorem State.complete_cscEncoding (s : State) : (s.complete).cscEncoding = s.cscEncoding := rfl
@[simp] theorem State.complete_cscResult (s : State) : (s.complete).cscResult = s.cscResult := rfl
@[simp] theorem State.complete_latch (s : State) : (s.complete).latch = s.latch := rfl
@[simp] theorem State.complete_tx (s : State) : (s.complete).tx = s.tx := rfl
@[simp] theorem State.complete_dc (s : State) : (s.complete).dc = s.dc := rfl
@[simp] theorem State.complete_rgbBank (s : State) : (s.complete).rgbBank = s.rgbBank := rfl
@[simp] theorem State.complete_lockAnswers (s : State) : (s.complete).lockAnswers = s.lockAnswers := rfl
@[simp] theorem State.complete_lockDraws (s : State) : (s.complete).lockDraws = s.lockDraws := rfl
@[simp] theorem State.complete_epoch (s : State) : (s.complete).epoch = s.epoch := rfl
@[simp] theorem State.complete_history (s : State) : (s.complete).history = s.history := rfl
@[simp] theorem State.complete_observed (s : State) : (s.complete).observed = s.observed := rfl
@[simp] theorem State.complete_inputs (s : State) : (s.complete).inputs = s.inputs := rfl
@[simp] theorem State.complete_turns (s : State) : (s.complete).turns = s.turns := rfl

/-! Fields after `retire`. -/

@[simp] theorem State.retire_cfg (s : State) : (s.retire).cfg = s.cfg := rfl
@[simp] theorem State.retire_cmd (s : State) : (s.retire).cmd = s.cmd := rfl
@[simp] theorem State.retire_status (s : State) : (s.retire).status = { s.status with busy := false, done := true } := rfl
@[simp] theorem State.retire_err (s : State) : (s.retire).err = s.err := rfl
@[simp] theorem State.retire_seqStep (s : State) : (s.retire).seqStep = 0 := rfl
@[simp] theorem State.retire_faultStep (s : State) : (s.retire).faultStep = s.faultStep := rfl
@[simp] theorem State.retire_pollcnt (s : State) : (s.retire).pollcnt = s.pollcnt := rfl
@[simp] theorem State.retire_rate (s : State) : (s.retire).rate = s.rate := rfl
@[simp] theorem State.retire_pre (s : State) : (s.retire).pre = s.pre := rfl
@[simp] theorem State.retire_post (s : State) : (s.retire).post = s.post := rfl
@[simp] theorem State.retire_mode (s : State) : (s.retire).mode = s.mode := rfl
@[simp] theorem State.retire_cscFormat (s : State) : (s.retire).cscFormat = s.cscFormat := rfl
@[simp] theorem State.retire_cscEncoding (s : State) : (s.retire).cscEncoding = s.cscEncoding := rfl
@[simp] theorem State.retire_cscResult (s : State) : (s.retire).cscResult = s.cscResult := rfl
@[simp] theorem State.retire_latch (s : State) : (s.retire).latch = s.latch := rfl
@[simp] theorem State.retire_tx (s : State) : (s.retire).tx = s.tx := rfl
@[simp] theorem State.retire_dc (s : State) : (s.retire).dc = s.dc := rfl
@[simp] theorem State.retire_rgbBank (s : State) : (s.retire).rgbBank = s.rgbBank := rfl
@[simp] theorem State.retire_lockAnswers (s : State) : (s.retire).lockAnswers = s.lockAnswers := rfl
@[simp] theorem State.retire_lockDraws (s : State) : (s.retire).lockDraws = s.lockDraws := rfl
@[simp] theorem State.retire_epoch (s : State) : (s.retire).epoch = s.epoch := rfl
@[simp] theorem State.retire_history (s : State) : (s.retire).history = s.history := rfl
@[simp] theorem State.retire_observed (s : State) : (s.retire).observed = s.observed := rfl
@[simp] theorem State.retire_inputs (s : State) : (s.retire).inputs = s.inputs := rfl
@[simp] theorem State.retire_turns (s : State) : (s.retire).turns = s.turns := rfl

/-! Fields after `advance`. -/

@[simp] theorem State.advance_cfg (s : State) : (s.advance).cfg = s.cfg := by unfold State.advance; split <;> rfl
@[simp] theorem State.advance_cmd (s : State) : (s.advance).cmd = s.cmd := by unfold State.advance; split <;> rfl
@[simp] theorem State.advance_err (s : State) : (s.advance).err = s.err := by unfold State.advance; split <;> rfl
@[simp] theorem State.advance_faultStep (s : State) : (s.advance).faultStep = s.faultStep := by unfold State.advance; split <;> rfl
@[simp] theorem State.advance_pollcnt (s : State) : (s.advance).pollcnt = s.pollcnt := by unfold State.advance; split <;> rfl
@[simp] theorem State.advance_rate (s : State) : (s.advance).rate = s.rate := by unfold State.advance; split <;> rfl
@[simp] theorem State.advance_pre (s : State) : (s.advance).pre = s.pre := by unfold State.advance; split <;> rfl
@[simp] theorem State.advance_post (s : State) : (s.advance).post = s.post := by unfold State.advance; split <;> rfl
@[simp] theorem State.advance_mode (s : State) : (s.advance).mode = s.mode := by unfold State.advance; split <;> rfl
@[simp] theorem State.advance_cscFormat (s : State) : (s.advance).cscFormat = s.cscFormat := by unfold State.advance; split <;> rfl
@[simp] theorem State.advance_cscEncoding (s : State) : (s.advance).cscEncoding = s.cscEncoding := by unfold State.advance; split <;> rfl
@[simp] theorem State.advance_cscResult (s : State) : (s.advance).cscResult = s.cscResult := by unfold State.advance; split <;> rfl
@[simp] theorem State.advance_latch (s : State) : (s.advance).latch = s.latch := by unfold State.advance; split <;> rfl
@[simp] theorem State.advance_tx (s : State) : (s.advance).tx = s.tx := by unfold State.advance; split <;> rfl
@[simp] theorem State.advance_dc (s : State) : (s.advance).dc = s.dc := by unfold State.advance; split <;> rfl
@[simp] theorem State.advance_rgbBank (s : State) : (s.advance).rgbBank = s.rgbBank := by unfold State.advance; split <;> rfl
@[simp] theorem State.advance_lockAnswers (s : State) : (s.advance).lockAnswers = s.lockAnswers := by unfold State.advance; split <;> rfl
@[simp] theorem State.advance_lockDraws (s : State) : (s.advance).lockDraws = s.lockDraws := by unfold State.advance; split <;> rfl
@[simp] theorem State.advance_epoch (s : State) : (s.advance).epoch = s.epoch := by unfold State.advance; split <;> rfl
@[simp] theorem State.advance_history (s : State) : (s.advance).history = s.history := by unfold State.advance; split <;> rfl
@[simp] theorem State.advance_observed (s : State) : (s.advance).observed = s.observed := by unfold State.advance; split <;> rfl
@[simp] theorem State.advance_inputs (s : State) : (s.advance).inputs = s.inputs := by unfold State.advance; split <;> rfl
@[simp] theorem State.advance_turns (s : State) : (s.advance).turns = s.turns := by unfold State.advance; split <;> rfl

/-! Fields after `raise`. -/

@[simp] theorem State.raise_cfg (s : State) (c : Cause) : (s.raise c).cfg = s.cfg := by cases c <;> rfl
@[simp] theorem State.raise_cmd (s : State) (c : Cause) : (s.raise c).cmd = s.cmd := by cases c <;> rfl
@[simp] theorem State.raise_err (s : State) (c : Cause) : (s.raise c).err = s.err.set c := by cases c <;> rfl
@[simp] theorem State.raise_pollcnt (s : State) (c : Cause) : (s.raise c).pollcnt = s.pollcnt := by cases c <;> rfl
@[simp] theorem State.raise_rate (s : State) (c : Cause) : (s.raise c).rate = s.rate := by cases c <;> rfl
@[simp] theorem State.raise_pre (s : State) (c : Cause) : (s.raise c).pre = s.pre := by cases c <;> rfl
@[simp] theorem State.raise_post (s : State) (c : Cause) : (s.raise c).post = s.post := by cases c <;> rfl
@[simp] theorem State.raise_mode (s : State) (c : Cause) : (s.raise c).mode = s.mode := by cases c <;> rfl
@[simp] theorem State.raise_cscFormat (s : State) (c : Cause) : (s.raise c).cscFormat = s.cscFormat := by cases c <;> rfl
@[simp] theorem State.raise_cscEncoding (s : State) (c : Cause) : (s.raise c).cscEncoding = s.cscEncoding := by cases c <;> rfl
@[simp] theorem State.raise_cscResult (s : State) (c : Cause) : (s.raise c).cscResult = s.cscResult := by cases c <;> rfl
@[simp] theorem State.raise_latch (s : State) (c : Cause) : (s.raise c).latch = s.latch := by cases c <;> rfl
@[simp] theorem State.raise_tx (s : State) (c : Cause) : (s.raise c).tx = s.tx := by cases c <;> rfl
@[simp] theorem State.raise_dc (s : State) (c : Cause) : (s.raise c).dc = s.dc := by cases c <;> rfl
@[simp] theorem State.raise_rgbBank (s : State) (c : Cause) : (s.raise c).rgbBank = s.rgbBank := by cases c <;> rfl
@[simp] theorem State.raise_lockAnswers (s : State) (c : Cause) : (s.raise c).lockAnswers = s.lockAnswers := by cases c <;> rfl
@[simp] theorem State.raise_lockDraws (s : State) (c : Cause) : (s.raise c).lockDraws = s.lockDraws := by cases c <;> rfl
@[simp] theorem State.raise_epoch (s : State) (c : Cause) : (s.raise c).epoch = s.epoch := by cases c <;> rfl
@[simp] theorem State.raise_history (s : State) (c : Cause) : (s.raise c).history = s.history := by cases c <;> rfl
@[simp] theorem State.raise_observed (s : State) (c : Cause) : (s.raise c).observed = s.observed := by cases c <;> rfl
@[simp] theorem State.raise_inputs (s : State) (c : Cause) : (s.raise c).inputs = s.inputs := by cases c <;> rfl
@[simp] theorem State.raise_turns (s : State) (c : Cause) : (s.raise c).turns = s.turns := by cases c <;> rfl

/-! Fields after `logAccess`. -/

@[simp] theorem State.logAccess_cfg (s : State) (kind : AccessKind) (space : Space) (off : Nat) (w : Word) : (s.logAccess kind space off w).cfg = s.cfg := rfl
@[simp] theorem State.logAccess_cmd (s : State) (kind : AccessKind) (space : Space) (off : Nat) (w : Word) : (s.logAccess kind space off w).cmd = s.cmd := rfl
@[simp] theorem State.logAccess_status (s : State) (kind : AccessKind) (space : Space) (off : Nat) (w : Word) : (s.logAccess kind space off w).status = s.status := rfl
@[simp] theorem State.logAccess_err (s : State) (kind : AccessKind) (space : Space) (off : Nat) (w : Word) : (s.logAccess kind space off w).err = s.err := rfl
@[simp] theorem State.logAccess_seqStep (s : State) (kind : AccessKind) (space : Space) (off : Nat) (w : Word) : (s.logAccess kind space off w).seqStep = s.seqStep := rfl
@[simp] theorem State.logAccess_faultStep (s : State) (kind : AccessKind) (space : Space) (off : Nat) (w : Word) : (s.logAccess kind space off w).faultStep = s.faultStep := rfl
@[simp] theorem State.logAccess_pollcnt (s : State) (kind : AccessKind) (space : Space) (off : Nat) (w : Word) : (s.logAccess kind space off w).pollcnt = s.pollcnt := rfl
@[simp] theorem State.logAccess_rate (s : State) (kind : AccessKind) (space : Space) (off : Nat) (w : Word) : (s.logAccess kind space off w).rate = s.rate := rfl
@[simp] theorem State.logAccess_pre (s : State) (kind : AccessKind) (space : Space) (off : Nat) (w : Word) : (s.logAccess kind space off w).pre = s.pre := rfl
@[simp] theorem State.logAccess_post (s : State) (kind : AccessKind) (space : Space) (off : Nat) (w : Word) : (s.logAccess kind space off w).post = s.post := rfl
@[simp] theorem State.logAccess_mode (s : State) (kind : AccessKind) (space : Space) (off : Nat) (w : Word) : (s.logAccess kind space off w).mode = s.mode := rfl
@[simp] theorem State.logAccess_cscFormat (s : State) (kind : AccessKind) (space : Space) (off : Nat) (w : Word) : (s.logAccess kind space off w).cscFormat = s.cscFormat := rfl
@[simp] theorem State.logAccess_cscEncoding (s : State) (kind : AccessKind) (space : Space) (off : Nat) (w : Word) : (s.logAccess kind space off w).cscEncoding = s.cscEncoding := rfl
@[simp] theorem State.logAccess_cscResult (s : State) (kind : AccessKind) (space : Space) (off : Nat) (w : Word) : (s.logAccess kind space off w).cscResult = s.cscResult := rfl
@[simp] theorem State.logAccess_latch (s : State) (kind : AccessKind) (space : Space) (off : Nat) (w : Word) : (s.logAccess kind space off w).latch = s.latch := rfl
@[simp] theorem State.logAccess_tx (s : State) (kind : AccessKind) (space : Space) (off : Nat) (w : Word) : (s.logAccess kind space off w).tx = s.tx := rfl
@[simp] theorem State.logAccess_dc (s : State) (kind : AccessKind) (space : Space) (off : Nat) (w : Word) : (s.logAccess kind space off w).dc = s.dc := rfl
@[simp] theorem State.logAccess_rgbBank (s : State) (kind : AccessKind) (space : Space) (off : Nat) (w : Word) : (s.logAccess kind space off w).rgbBank = s.rgbBank := rfl
@[simp] theorem State.logAccess_lockAnswers (s : State) (kind : AccessKind) (space : Space) (off : Nat) (w : Word) : (s.logAccess kind space off w).lockAnswers = s.lockAnswers := rfl
@[simp] theorem State.logAccess_lockDraws (s : State) (kind : AccessKind) (space : Space) (off : Nat) (w : Word) : (s.logAccess kind space off w).lockDraws = s.lockDraws := rfl
@[simp] theorem State.logAccess_epoch (s : State) (kind : AccessKind) (space : Space) (off : Nat) (w : Word) : (s.logAccess kind space off w).epoch = s.epoch := rfl
@[simp] theorem State.logAccess_observed (s : State) (kind : AccessKind) (space : Space) (off : Nat) (w : Word) : (s.logAccess kind space off w).observed = s.observed := rfl
@[simp] theorem State.logAccess_inputs (s : State) (kind : AccessKind) (space : Space) (off : Nat) (w : Word) : (s.logAccess kind space off w).inputs = s.inputs := rfl
@[simp] theorem State.logAccess_turns (s : State) (kind : AccessKind) (space : Space) (off : Nat) (w : Word) : (s.logAccess kind space off w).turns = s.turns := rfl

/-! Fields after `memWrite`. -/

@[simp] theorem State.memWrite_cfg (s : State) (space : Space) (off : Nat) (w : Word) : (s.memWrite space off w).cfg = s.cfg := by cases space <;> rfl
@[simp] theorem State.memWrite_cmd (s : State) (space : Space) (off : Nat) (w : Word) : (s.memWrite space off w).cmd = s.cmd := by cases space <;> rfl
@[simp] theorem State.memWrite_status (s : State) (space : Space) (off : Nat) (w : Word) : (s.memWrite space off w).status = s.status := by cases space <;> rfl
@[simp] theorem State.memWrite_err (s : State) (space : Space) (off : Nat) (w : Word) : (s.memWrite space off w).err = s.err := by cases space <;> rfl
@[simp] theorem State.memWrite_seqStep (s : State) (space : Space) (off : Nat) (w : Word) : (s.memWrite space off w).seqStep = s.seqStep := by cases space <;> rfl
@[simp] theorem State.memWrite_faultStep (s : State) (space : Space) (off : Nat) (w : Word) : (s.memWrite space off w).faultStep = s.faultStep := by cases space <;> rfl
@[simp] theorem State.memWrite_pollcnt (s : State) (space : Space) (off : Nat) (w : Word) : (s.memWrite space off w).pollcnt = s.pollcnt := by cases space <;> rfl
@[simp] theorem State.memWrite_rate (s : State) (space : Space) (off : Nat) (w : Word) : (s.memWrite space off w).rate = s.rate := by cases space <;> rfl
@[simp] theorem State.memWrite_pre (s : State) (space : Space) (off : Nat) (w : Word) : (s.memWrite space off w).pre = s.pre := by cases space <;> rfl
@[simp] theorem State.memWrite_post (s : State) (space : Space) (off : Nat) (w : Word) : (s.memWrite space off w).post = s.post := by cases space <;> rfl
@[simp] theorem State.memWrite_mode (s : State) (space : Space) (off : Nat) (w : Word) : (s.memWrite space off w).mode = s.mode := by cases space <;> rfl
@[simp] theorem State.memWrite_cscFormat (s : State) (space : Space) (off : Nat) (w : Word) : (s.memWrite space off w).cscFormat = s.cscFormat := by cases space <;> rfl
@[simp] theorem State.memWrite_cscEncoding (s : State) (space : Space) (off : Nat) (w : Word) : (s.memWrite space off w).cscEncoding = s.cscEncoding := by cases space <;> rfl
@[simp] theorem State.memWrite_cscResult (s : State) (space : Space) (off : Nat) (w : Word) : (s.memWrite space off w).cscResult = s.cscResult := by cases space <;> rfl
@[simp] theorem State.memWrite_latch (s : State) (space : Space) (off : Nat) (w : Word) : (s.memWrite space off w).latch = s.latch := by cases space <;> rfl
@[simp] theorem State.memWrite_rgbBank (s : State) (space : Space) (off : Nat) (w : Word) : (s.memWrite space off w).rgbBank = s.rgbBank := by cases space <;> rfl
@[simp] theorem State.memWrite_lockAnswers (s : State) (space : Space) (off : Nat) (w : Word) : (s.memWrite space off w).lockAnswers = s.lockAnswers := by cases space <;> rfl
@[simp] theorem State.memWrite_lockDraws (s : State) (space : Space) (off : Nat) (w : Word) : (s.memWrite space off w).lockDraws = s.lockDraws := by cases space <;> rfl
@[simp] theorem State.memWrite_epoch (s : State) (space : Space) (off : Nat) (w : Word) : (s.memWrite space off w).epoch = s.epoch := by cases space <;> rfl
@[simp] theorem State.memWrite_history (s : State) (space : Space) (off : Nat) (w : Word) : (s.memWrite space off w).history = s.history := by cases space <;> rfl
@[simp] theorem State.memWrite_observed (s : State) (space : Space) (off : Nat) (w : Word) : (s.memWrite space off w).observed = s.observed := by cases space <;> rfl
@[simp] theorem State.memWrite_inputs (s : State) (space : Space) (off : Nat) (w : Word) : (s.memWrite space off w).inputs = s.inputs := by cases space <;> rfl
@[simp] theorem State.memWrite_turns (s : State) (space : Space) (off : Nat) (w : Word) : (s.memWrite space off w).turns = s.turns := by cases space <;> rfl

/-! Fields after `lockAnswered`. -/

@[simp] theorem State.lockAnswered_cfg (s : State) : (s.lockAnswered).cfg = s.cfg := by unfold State.lockAnswered; split <;> rfl
@[simp] theorem State.lockAnswered_cmd (s : State) : (s.lockAnswered).cmd = s.cmd := by unfold State.lockAnswered; split <;> rfl
@[simp] theorem State.lockAnswered_status (s : State) : (s.lockAnswered).status = s.status := by unfold State.lockAnswered; split <;> rfl
@[simp] theorem State.lockAnswered_err (s : State) : (s.lockAnswered).err = s.err := by unfold State.lockAnswered; split <;> rfl
@[simp] theorem State.lockAnswered_seqStep (s : State) : (s.lockAnswered).seqStep = s.seqStep := by unfold State.lockAnswered; split <;> rfl
@[simp] theorem State.lockAnswered_faultStep (s : State) : (s.lockAnswered).faultStep = s.faultStep := by unfold State.lockAnswered; split <;> rfl
@[simp] theorem State.lockAnswered_pollcnt (s : State) : (s.lockAnswered).pollcnt = s.pollcnt := by unfold State.lockAnswered; split <;> rfl
@[simp] theorem State.lockAnswered_rate (s : State) : (s.lockAnswered).rate = s.rate := by unfold State.lockAnswered; split <;> rfl
@[simp] theorem State.lockAnswered_pre (s : State) : (s.lockAnswered).pre = s.pre := by unfold State.lockAnswered; split <;> rfl
@[simp] theorem State.lockAnswered_post (s : State) : (s.lockAnswered).post = s.post := by unfold State.lockAnswered; split <;> rfl
@[simp] theorem State.lockAnswered_mode (s : State) : (s.lockAnswered).mode = s.mode := by unfold State.lockAnswered; split <;> rfl
@[simp] theorem State.lockAnswered_cscFormat (s : State) : (s.lockAnswered).cscFormat = s.cscFormat := by unfold State.lockAnswered; split <;> rfl
@[simp] theorem State.lockAnswered_cscEncoding (s : State) : (s.lockAnswered).cscEncoding = s.cscEncoding := by unfold State.lockAnswered; split <;> rfl
@[simp] theorem State.lockAnswered_cscResult (s : State) : (s.lockAnswered).cscResult = s.cscResult := by unfold State.lockAnswered; split <;> rfl
@[simp] theorem State.lockAnswered_latch (s : State) : (s.lockAnswered).latch = s.latch := by unfold State.lockAnswered; split <;> rfl
@[simp] theorem State.lockAnswered_tx (s : State) : (s.lockAnswered).tx = s.tx := by unfold State.lockAnswered; split <;> rfl
@[simp] theorem State.lockAnswered_dc (s : State) : (s.lockAnswered).dc = s.dc := by unfold State.lockAnswered; split <;> rfl
@[simp] theorem State.lockAnswered_rgbBank (s : State) : (s.lockAnswered).rgbBank = s.rgbBank := by unfold State.lockAnswered; split <;> rfl
@[simp] theorem State.lockAnswered_epoch (s : State) : (s.lockAnswered).epoch = s.epoch := by unfold State.lockAnswered; split <;> rfl
@[simp] theorem State.lockAnswered_history (s : State) : (s.lockAnswered).history = s.history := by unfold State.lockAnswered; split <;> rfl
@[simp] theorem State.lockAnswered_observed (s : State) : (s.lockAnswered).observed = s.observed := by unfold State.lockAnswered; split <;> rfl
@[simp] theorem State.lockAnswered_inputs (s : State) : (s.lockAnswered).inputs = s.inputs := by unfold State.lockAnswered; split <;> rfl
@[simp] theorem State.lockAnswered_turns (s : State) : (s.lockAnswered).turns = s.turns := by unfold State.lockAnswered; split <;> rfl

/-! Fields after `perform`. -/

@[simp] theorem State.perform_cfg (s : State) (a : Access) : (s.perform a).cfg = s.cfg := by cases a <;> rfl
@[simp] theorem State.perform_cmd (s : State) (a : Access) : (s.perform a).cmd = s.cmd := by cases a <;> rfl
@[simp] theorem State.perform_status (s : State) (a : Access) : (s.perform a).status = s.status := by cases a <;> rfl
@[simp] theorem State.perform_err (s : State) (a : Access) : (s.perform a).err = s.err := by cases a <;> rfl
@[simp] theorem State.perform_seqStep (s : State) (a : Access) : (s.perform a).seqStep = s.seqStep := by cases a <;> rfl
@[simp] theorem State.perform_faultStep (s : State) (a : Access) : (s.perform a).faultStep = s.faultStep := by cases a <;> rfl
@[simp] theorem State.perform_pollcnt (s : State) (a : Access) : (s.perform a).pollcnt = s.pollcnt := by cases a <;> rfl
@[simp] theorem State.perform_rate (s : State) (a : Access) : (s.perform a).rate = s.rate := by cases a <;> rfl
@[simp] theorem State.perform_pre (s : State) (a : Access) : (s.perform a).pre = s.pre := by cases a <;> rfl
@[simp] theorem State.perform_post (s : State) (a : Access) : (s.perform a).post = s.post := by cases a <;> rfl
@[simp] theorem State.perform_mode (s : State) (a : Access) : (s.perform a).mode = s.mode := by cases a <;> rfl
@[simp] theorem State.perform_cscFormat (s : State) (a : Access) : (s.perform a).cscFormat = s.cscFormat := by cases a <;> rfl
@[simp] theorem State.perform_cscEncoding (s : State) (a : Access) : (s.perform a).cscEncoding = s.cscEncoding := by cases a <;> rfl
@[simp] theorem State.perform_cscResult (s : State) (a : Access) : (s.perform a).cscResult = s.cscResult := by cases a <;> rfl
@[simp] theorem State.perform_latch (s : State) (a : Access) : (s.perform a).latch = s.latch := by cases a <;> rfl
@[simp] theorem State.perform_rgbBank (s : State) (a : Access) : (s.perform a).rgbBank = s.rgbBank := by cases a <;> rfl
@[simp] theorem State.perform_lockAnswers (s : State) (a : Access) : (s.perform a).lockAnswers = s.lockAnswers := by cases a <;> rfl
@[simp] theorem State.perform_lockDraws (s : State) (a : Access) : (s.perform a).lockDraws = s.lockDraws := by cases a <;> rfl
@[simp] theorem State.perform_epoch (s : State) (a : Access) : (s.perform a).epoch = s.epoch := by cases a <;> rfl
@[simp] theorem State.perform_observed (s : State) (a : Access) : (s.perform a).observed = s.observed := by cases a <;> rfl
@[simp] theorem State.perform_inputs (s : State) (a : Access) : (s.perform a).inputs = s.inputs := by cases a <;> rfl
@[simp] theorem State.perform_turns (s : State) (a : Access) : (s.perform a).turns = s.turns := by cases a <;> rfl

/-! Fields after `drawRgbBank`. -/

@[simp] theorem State.drawRgbBank_cfg (s : State) (slot : Nat) : (s.drawRgbBank slot).cfg = s.cfg := rfl
@[simp] theorem State.drawRgbBank_cmd (s : State) (slot : Nat) : (s.drawRgbBank slot).cmd = s.cmd := rfl
@[simp] theorem State.drawRgbBank_status (s : State) (slot : Nat) : (s.drawRgbBank slot).status = s.status := rfl
@[simp] theorem State.drawRgbBank_err (s : State) (slot : Nat) : (s.drawRgbBank slot).err = s.err := rfl
@[simp] theorem State.drawRgbBank_seqStep (s : State) (slot : Nat) : (s.drawRgbBank slot).seqStep = s.seqStep := rfl
@[simp] theorem State.drawRgbBank_faultStep (s : State) (slot : Nat) : (s.drawRgbBank slot).faultStep = s.faultStep := rfl
@[simp] theorem State.drawRgbBank_pollcnt (s : State) (slot : Nat) : (s.drawRgbBank slot).pollcnt = s.pollcnt := rfl
@[simp] theorem State.drawRgbBank_rate (s : State) (slot : Nat) : (s.drawRgbBank slot).rate = s.rate := rfl
@[simp] theorem State.drawRgbBank_pre (s : State) (slot : Nat) : (s.drawRgbBank slot).pre = s.pre := rfl
@[simp] theorem State.drawRgbBank_post (s : State) (slot : Nat) : (s.drawRgbBank slot).post = s.post := rfl
@[simp] theorem State.drawRgbBank_mode (s : State) (slot : Nat) : (s.drawRgbBank slot).mode = s.mode := rfl
@[simp] theorem State.drawRgbBank_cscFormat (s : State) (slot : Nat) : (s.drawRgbBank slot).cscFormat = s.cscFormat := rfl
@[simp] theorem State.drawRgbBank_cscEncoding (s : State) (slot : Nat) : (s.drawRgbBank slot).cscEncoding = s.cscEncoding := rfl
@[simp] theorem State.drawRgbBank_cscResult (s : State) (slot : Nat) : (s.drawRgbBank slot).cscResult = s.cscResult := rfl
@[simp] theorem State.drawRgbBank_latch (s : State) (slot : Nat) : (s.drawRgbBank slot).latch = s.latch := rfl
@[simp] theorem State.drawRgbBank_tx (s : State) (slot : Nat) : (s.drawRgbBank slot).tx = s.tx := rfl
@[simp] theorem State.drawRgbBank_dc (s : State) (slot : Nat) : (s.drawRgbBank slot).dc = s.dc := rfl
@[simp] theorem State.drawRgbBank_lockAnswers (s : State) (slot : Nat) : (s.drawRgbBank slot).lockAnswers = s.lockAnswers := rfl
@[simp] theorem State.drawRgbBank_lockDraws (s : State) (slot : Nat) : (s.drawRgbBank slot).lockDraws = s.lockDraws := rfl
@[simp] theorem State.drawRgbBank_epoch (s : State) (slot : Nat) : (s.drawRgbBank slot).epoch = s.epoch := rfl
@[simp] theorem State.drawRgbBank_history (s : State) (slot : Nat) : (s.drawRgbBank slot).history = s.history := rfl
@[simp] theorem State.drawRgbBank_observed (s : State) (slot : Nat) : (s.drawRgbBank slot).observed = s.observed := rfl
@[simp] theorem State.drawRgbBank_inputs (s : State) (slot : Nat) : (s.drawRgbBank slot).inputs = s.inputs := rfl
@[simp] theorem State.drawRgbBank_turns (s : State) (slot : Nat) : (s.drawRgbBank slot).turns = s.turns := rfl

/-! Fields after `hostRead`. -/

@[simp] theorem State.hostRead_cfg (s : State) (index : Nat) : (s.hostRead index).cfg = s.cfg := rfl
@[simp] theorem State.hostRead_cmd (s : State) (index : Nat) : (s.hostRead index).cmd = s.cmd := rfl
@[simp] theorem State.hostRead_status (s : State) (index : Nat) : (s.hostRead index).status = s.status := rfl
@[simp] theorem State.hostRead_err (s : State) (index : Nat) : (s.hostRead index).err = s.err := rfl
@[simp] theorem State.hostRead_seqStep (s : State) (index : Nat) : (s.hostRead index).seqStep = s.seqStep := rfl
@[simp] theorem State.hostRead_faultStep (s : State) (index : Nat) : (s.hostRead index).faultStep = s.faultStep := rfl
@[simp] theorem State.hostRead_pollcnt (s : State) (index : Nat) : (s.hostRead index).pollcnt = s.pollcnt := rfl
@[simp] theorem State.hostRead_rate (s : State) (index : Nat) : (s.hostRead index).rate = s.rate := rfl
@[simp] theorem State.hostRead_pre (s : State) (index : Nat) : (s.hostRead index).pre = s.pre := rfl
@[simp] theorem State.hostRead_post (s : State) (index : Nat) : (s.hostRead index).post = s.post := rfl
@[simp] theorem State.hostRead_mode (s : State) (index : Nat) : (s.hostRead index).mode = s.mode := rfl
@[simp] theorem State.hostRead_cscFormat (s : State) (index : Nat) : (s.hostRead index).cscFormat = s.cscFormat := rfl
@[simp] theorem State.hostRead_cscEncoding (s : State) (index : Nat) : (s.hostRead index).cscEncoding = s.cscEncoding := rfl
@[simp] theorem State.hostRead_cscResult (s : State) (index : Nat) : (s.hostRead index).cscResult = s.cscResult := rfl
@[simp] theorem State.hostRead_latch (s : State) (index : Nat) : (s.hostRead index).latch = s.latch := rfl
@[simp] theorem State.hostRead_tx (s : State) (index : Nat) : (s.hostRead index).tx = s.tx := rfl
@[simp] theorem State.hostRead_dc (s : State) (index : Nat) : (s.hostRead index).dc = s.dc := rfl
@[simp] theorem State.hostRead_rgbBank (s : State) (index : Nat) : (s.hostRead index).rgbBank = s.rgbBank := rfl
@[simp] theorem State.hostRead_lockAnswers (s : State) (index : Nat) : (s.hostRead index).lockAnswers = s.lockAnswers := rfl
@[simp] theorem State.hostRead_lockDraws (s : State) (index : Nat) : (s.hostRead index).lockDraws = s.lockDraws := rfl
@[simp] theorem State.hostRead_epoch (s : State) (index : Nat) : (s.hostRead index).epoch = s.epoch := rfl
@[simp] theorem State.hostRead_history (s : State) (index : Nat) : (s.hostRead index).history = s.history := rfl
@[simp] theorem State.hostRead_inputs (s : State) (index : Nat) : (s.hostRead index).inputs = s.inputs := rfl
@[simp] theorem State.hostRead_turns (s : State) (index : Nat) : (s.hostRead index).turns = s.turns := rfl

/-! Fields after `turnTaken`. -/

@[simp] theorem State.turnTaken_cfg (s : State) : (s.turnTaken).cfg = s.cfg := rfl
@[simp] theorem State.turnTaken_cmd (s : State) : (s.turnTaken).cmd = s.cmd := rfl
@[simp] theorem State.turnTaken_status (s : State) : (s.turnTaken).status = s.status := rfl
@[simp] theorem State.turnTaken_err (s : State) : (s.turnTaken).err = s.err := rfl
@[simp] theorem State.turnTaken_seqStep (s : State) : (s.turnTaken).seqStep = s.seqStep := rfl
@[simp] theorem State.turnTaken_faultStep (s : State) : (s.turnTaken).faultStep = s.faultStep := rfl
@[simp] theorem State.turnTaken_pollcnt (s : State) : (s.turnTaken).pollcnt = s.pollcnt := rfl
@[simp] theorem State.turnTaken_rate (s : State) : (s.turnTaken).rate = s.rate := rfl
@[simp] theorem State.turnTaken_pre (s : State) : (s.turnTaken).pre = s.pre := rfl
@[simp] theorem State.turnTaken_post (s : State) : (s.turnTaken).post = s.post := rfl
@[simp] theorem State.turnTaken_mode (s : State) : (s.turnTaken).mode = s.mode := rfl
@[simp] theorem State.turnTaken_cscFormat (s : State) : (s.turnTaken).cscFormat = s.cscFormat := rfl
@[simp] theorem State.turnTaken_cscEncoding (s : State) : (s.turnTaken).cscEncoding = s.cscEncoding := rfl
@[simp] theorem State.turnTaken_cscResult (s : State) : (s.turnTaken).cscResult = s.cscResult := rfl
@[simp] theorem State.turnTaken_latch (s : State) : (s.turnTaken).latch = s.latch := rfl
@[simp] theorem State.turnTaken_tx (s : State) : (s.turnTaken).tx = s.tx := rfl
@[simp] theorem State.turnTaken_dc (s : State) : (s.turnTaken).dc = s.dc := rfl
@[simp] theorem State.turnTaken_rgbBank (s : State) : (s.turnTaken).rgbBank = s.rgbBank := rfl
@[simp] theorem State.turnTaken_lockAnswers (s : State) : (s.turnTaken).lockAnswers = s.lockAnswers := rfl
@[simp] theorem State.turnTaken_lockDraws (s : State) : (s.turnTaken).lockDraws = s.lockDraws := rfl
@[simp] theorem State.turnTaken_epoch (s : State) : (s.turnTaken).epoch = s.epoch := rfl
@[simp] theorem State.turnTaken_history (s : State) : (s.turnTaken).history = s.history := rfl
@[simp] theorem State.turnTaken_observed (s : State) : (s.turnTaken).observed = s.observed := rfl
@[simp] theorem State.turnTaken_inputs (s : State) : (s.turnTaken).inputs = s.inputs := rfl
@[simp] theorem State.turnTaken_turns (s : State) : (s.turnTaken).turns = s.turns.tail := rfl

end Sys2Proof.Machine
end

