-- ==== Sys2Proof/Laws/Sequencer.lean ====
section
/-! SUPPORT. What a micro-step can do, said once (`sequencerStep_cases`), and what a run of register steps does
(`run_registers`), for the proofs about commands to cite. -/

namespace Sys2Proof.Machine

/-! Runs. -/

theorem sequencerRun_zero (s : State) : sequencerRun 0 s = .next s := rfl

theorem sequencerRun_succ_of_turn {s t : State} (n : Nat) (h : sequencerTurn s = .next t) :
    sequencerRun (n + 1) s = sequencerRun n t := by
  simp [sequencerRun, h]

theorem sequencerTurn_of_busy {s : State} (h : s.status.busy = true) : sequencerTurn s = sequencerStep s := by
  simp [sequencerTurn, h]

theorem sequencerTurn_of_idle {s : State} (h : s.status.busy = false) : sequencerTurn s = .next s := by
  simp [sequencerTurn, h]

/-- An idle sequencer stays idle, however many turns it gets. -/
theorem sequencerRun_of_idle {s : State} (n : Nat) (h : s.status.busy = false) : sequencerRun n s = .next s := by
  induction n with
  | zero => rfl
  | succ n ih => rw [sequencerRun_succ_of_turn n (sequencerTurn_of_idle h), ih]

/-- Runs compose. -/
theorem sequencerRun_add {s t : State} (m n : Nat) (h : sequencerRun m s = .next t) :
    sequencerRun (m + n) s = sequencerRun n t := by
  induction m generalizing s with
  | zero =>
    cases h
    rw [Nat.zero_add]
  | succ m ih =>
    rw [Nat.succ_add]
    simp only [sequencerRun] at h ⊢
    cases hs : sequencerTurn s with
    | next u => exact ih (by simpa [hs] using h)
    | fault f => simp [hs] at h
    | refused r => simp [hs] at h

/-! What a micro-step can do. -/

/-- The steps that make no choice of their own: one register access, then the next step. -/
def isRegisterStep (n : Byte) : Bool := n != 0x01 && n != 0x02 && n != 0x16 && n != 0x17 && n != 0x40

theorem sequencerStep_register {s : State} (hm : s.seqStep ∈ stepList s.cfg s.latch.op)
    (hn : isRegisterStep s.seqStep = true) : sequencerStep s = s.stepRegister := by
  have hc : (stepList s.cfg s.latch.op).contains s.seqStep = true := by simpa using hm
  simp only [sequencerStep, hc, if_true]
  simp only [isRegisterStep, Bool.and_eq_true, bne_iff_ne, ne_eq] at hn
  obtain ⟨⟨⟨⟨h1, h2⟩, h3⟩, h4⟩, h5⟩ := hn
  split <;> rename_i h
  · exact absurd (BitVec.eq_of_toNat_eq h) h1
  · exact absurd (BitVec.eq_of_toNat_eq h) h2
  · exact absurd (BitVec.eq_of_toNat_eq h) h3
  · exact absurd (BitVec.eq_of_toNat_eq h) h4
  · exact absurd (BitVec.eq_of_toNat_eq h) h5
  · rfl

/-- A micro-step that answers a next state is a step of the latched command, and one of these. -/
theorem sequencerStep_cases {s t : State} (h : sequencerStep s = .next t) :
    s.seqStep ∈ stepList s.cfg s.latch.op ∧
    ((s.seqStep = 0x01 ∧ t = s.stepSolvePre.advance) ∨ (s.seqStep = 0x02 ∧ t = s.stepSolvePost.advance) ∨
     (s.seqStep = 0x16 ∧ t = s.stepPollPre) ∨ (s.seqStep = 0x17 ∧ t = s.stepPollPost) ∨
     (s.seqStep = 0x40 ∧ t = s.stepMapFmt) ∨
     (isRegisterStep s.seqStep = true ∧ ∃ a, stepAccess s = some a ∧ t = (s.perform a).advance)) := by
  unfold sequencerStep at h
  split at h
  · rename_i hc
    refine ⟨by simpa using hc, ?_⟩
    split at h <;> rename_i hs
    · exact .inl ⟨BitVec.eq_of_toNat_eq hs, by simpa using h.symm⟩
    · exact .inr (.inl ⟨BitVec.eq_of_toNat_eq hs, by simpa using h.symm⟩)
    · exact .inr (.inr (.inl ⟨BitVec.eq_of_toNat_eq hs, by simpa using h.symm⟩))
    · exact .inr (.inr (.inr (.inl ⟨BitVec.eq_of_toNat_eq hs, by simpa using h.symm⟩)))
    · exact .inr (.inr (.inr (.inr (.inl ⟨BitVec.eq_of_toNat_eq hs, by simpa using h.symm⟩))))
    · rename_i h1 h2 h3 h4
      refine .inr (.inr (.inr (.inr (.inr ⟨?_, ?_⟩))))
      · simp only [isRegisterStep, Bool.and_eq_true, bne_iff_ne, ne_eq]
        refine ⟨⟨⟨⟨?_, ?_⟩, ?_⟩, ?_⟩, ?_⟩ <;> (intro he; simp [he] at *)
      · unfold State.stepRegister at h
        split at h
        · rename_i a ha
          exact ⟨a, ha, by simpa using h.symm⟩
        · cases h
  · cases h

/-! Runs of register steps. -/

/-- The state standing at step `n`. -/
def State.atStep (s : State) (n : Byte) : State := { s with seqStep := n }

/-- Standing where it stands. -/
theorem State.atStep_self {s : State} {n : Byte} (h : n = s.seqStep) : s.atStep n = s := by
  subst h; rfl

/-- The accesses of a list of steps, each recorded under its step. -/
def State.performList (s : State) : List (Byte × Access) → State
  | [] => s
  | x :: rest => ((s.atStep x.1).perform x.2).performList rest

/-- An access changes the two spaces and the history only. -/
theorem State.perform_frame (s : State) (a : Access) :
    s.perform a = { s with tx := (s.perform a).tx, dc := (s.perform a).dc, history := (s.perform a).history } := by
  cases a <;> rfl

/-- Nothing but the two spaces, the history and STEP changes. -/
theorem State.performList_frame (s : State) (l : List (Byte × Access)) :
    s.performList l = { s with tx := (s.performList l).tx, dc := (s.performList l).dc,
                               history := (s.performList l).history, seqStep := (s.performList l).seqStep } := by
  induction l generalizing s with
  | nil => rfl
  | cons x rest ih =>
    rw [State.performList, ih, State.perform_frame]
    rfl

/-- A register step reads the configuration, the results, the latches, TABLE_SEL and STEP only. -/
theorem stepAccess_congr {s t : State} (h1 : s.cfg = t.cfg) (h2 : s.pre = t.pre) (h3 : s.post = t.post)
    (h4 : s.latch = t.latch) (h5 : s.cscResult = t.cscResult) (h6 : s.seqStep = t.seqStep) :
    stepAccess s = stepAccess t := by
  simp [stepAccess, h1, h2, h3, h4, h5, h6]

/-- A run of register steps performs their accesses in order, and stands at the step after them, or has retired. -/
theorem run_registers {l : List (Byte × Access)} {p q : List Byte} {s : State} (hb : s.status.busy = true)
    (hl : stepList s.cfg s.latch.op = p ++ (l.map Prod.fst ++ q)) (hd : (stepList s.cfg s.latch.op).Nodup)
    (ha : ∀ x ∈ l, isRegisterStep x.1 = true ∧ stepAccess (s.atStep x.1) = some x.2)
    (hs : (l.map Prod.fst).head? = some s.seqStep) :
    sequencerRun l.length s = .next (match q.head? with
      | none => (s.performList l).retire
      | some n => (s.performList l).atStep n) := by
  induction l generalizing s p with
  | nil => simp at hs
  | cons x rest ih =>
    have hx : x.1 = s.seqStep := by simpa using hs
    obtain ⟨hreg, hacc⟩ := ha x (by simp)
    have hself : s.atStep x.1 = s := State.atStep_self hx
    have hmem : s.seqStep ∈ stepList s.cfg s.latch.op := by rw [hl, ← hx]; simp
    have hturn : sequencerTurn s = .next (s.perform x.2).advance := by
      rw [sequencerTurn_of_busy hb, sequencerStep_register hmem (hx ▸ hreg), State.stepRegister]
      rw [hself] at hacc
      rw [hacc]
    have hfirst : s.performList (x :: rest) = (s.perform x.2).performList rest := by
      rw [State.performList, hself]
    rw [List.length_cons, sequencerRun_succ_of_turn _ hturn, hfirst]
    have hnot : x.1 ∉ p := by
      intro hp
      rw [hl] at hd
      exact (List.nodup_append.1 hd).2.2 _ hp x.1 (by simp) rfl
    have hf : following s.seqStep (stepList s.cfg s.latch.op) = (rest.map Prod.fst ++ q).head? := by
      rw [hl, ← hx]
      cases hr : rest.map Prod.fst ++ q with
      | nil => simpa [hr] using following_last hnot
      | cons n r => simpa [hr] using following_mid (r := r) hnot
    cases rest with
    | nil =>
      rw [List.length_nil, sequencerRun_zero, State.performList]
      simp only [List.map_nil, List.nil_append] at hf
      cases hq : q.head? with
      | none => simp [State.advance, hf, hq]
      | some n => simp [State.advance, hf, hq, State.atStep]
    | cons y rest =>
      have hadv : (s.perform x.2).advance = (s.perform x.2).atStep y.1 := by
        simp [State.advance, hf, State.atStep]
      rw [hadv]
      have key := ih (s := (s.perform x.2).atStep y.1) (p := p ++ [x.1]) (by simpa [State.atStep] using hb)
        (by simpa [State.atStep] using hl) (by simpa [State.atStep] using hd)
        (fun z hz => ⟨(ha z (List.mem_cons_of_mem _ hz)).1, by
          rw [← (ha z (List.mem_cons_of_mem _ hz)).2]
          apply stepAccess_congr <;> simp [State.atStep]⟩) rfl
      rw [key]
      rfl

/-! Lists of plain byte writes to the HDMI block, and of word writes to the display controller. -/

/-- A list of TxWrites as register steps: step, logical register, payload. -/
def txSteps (l : List (Byte × Nat × Byte)) : List (Byte × Access) := l.map fun x => (x.1, .txWrite x.2.1 x.2.2)

/-- A list of DcWrites as register steps: step, byte offset, word. -/
def dcSteps (l : List (Byte × Nat × Word)) : List (Byte × Access) := l.map fun x => (x.1, .dcWrite x.2.1 x.2.2)

theorem performList_append (s : State) (l m : List (Byte × Access)) :
    s.performList (l ++ m) = (s.performList l).performList m := by
  induction l generalizing s with
  | nil => rfl
  | cons x rest ih => exact ih _

theorem performList_txSteps_history (s : State) (l : List (Byte × Nat × Byte)) :
    (s.performList (txSteps l)).history = s.history ++ l.map fun x => txWriteEvent s.cfg x.1 x.2.1 x.2.2 := by
  induction l generalizing s with
  | nil => simp [txSteps, State.performList]
  | cons x rest ih =>
    have := ih ((s.atStep x.1).perform (.txWrite x.2.1 x.2.2))
    simp only [txSteps, List.map_cons, State.performList] at this ⊢
    rw [this]
    simp [State.perform, State.txWrite, State.logAccess, State.memWrite, txWriteEvent, State.atStep]

theorem performList_txSteps_dc (s : State) (l : List (Byte × Nat × Byte)) :
    (s.performList (txSteps l)).dc = s.dc := by
  induction l generalizing s with
  | nil => rfl
  | cons x rest ih =>
    simp only [txSteps, List.map_cons, State.performList]
    exact ih _

theorem performList_txSteps_other (s : State) (l : List (Byte × Nat × Byte)) (off : Nat)
    (h : ∀ x ∈ l, off ≠ txByteOffset s.cfg x.2.1) :
    (s.performList (txSteps l)).memRead .tx off = s.memRead .tx off := by
  induction l generalizing s with
  | nil => rfl
  | cons x rest ih =>
    have := ih ((s.atStep x.1).perform (.txWrite x.2.1 x.2.2))
      (fun y hy => by simpa [State.atStep] using h y (List.mem_cons_of_mem _ hy))
    simp only [txSteps, List.map_cons, State.performList] at this ⊢
    rw [this]
    exact State.memRead_memWrite_other (s.atStep x.1) (space := .tx) (space' := .tx) (x.2.2.setWidth 32)
      (.inr (h x (by simp)))

/-- With distinct offsets, each register written holds its own payload at the end. -/
theorem performList_txSteps_same (s : State) (l : List (Byte × Nat × Byte))
    (hd : (l.map fun x => txByteOffset s.cfg x.2.1).Nodup) :
    ∀ x ∈ l, (s.performList (txSteps l)).memRead .tx (txByteOffset s.cfg x.2.1) = x.2.2.setWidth 32 := by
  induction l generalizing s with
  | nil => simp
  | cons x rest ih =>
    intro y hy
    simp only [List.map_cons, List.nodup_cons] at hd
    set s' := (s.atStep x.1).perform (.txWrite x.2.1 x.2.2) with hs'
    have hstep : s.performList (txSteps (x :: rest)) = s'.performList (txSteps rest) := rfl
    rw [hstep]
    rcases List.mem_cons.1 hy with rfl | hy
    · rw [performList_txSteps_other]
      · exact State.memRead_memWrite_same (s.atStep y.1) (space := .tx) _ _ (by decide)
      · intro z hz he
        apply hd.1
        rw [he]
        simpa [hs', State.atStep] using List.mem_map_of_mem (f := fun x => txByteOffset s.cfg x.2.1) hz
    · simpa [hs', State.atStep] using ih s' (by simpa [hs', State.atStep] using hd.2) y hy

theorem performList_dcSteps_history (s : State) (l : List (Byte × Nat × Word)) :
    (s.performList (dcSteps l)).history = s.history ++ l.map fun x => dcWriteEvent s.cfg x.1 x.2.1 x.2.2 := by
  induction l generalizing s with
  | nil => simp [dcSteps, State.performList]
  | cons x rest ih =>
    have := ih ((s.atStep x.1).perform (.dcWrite x.2.1 x.2.2))
    simp only [dcSteps, List.map_cons, State.performList] at this ⊢
    rw [this]
    simp [State.perform, State.dcWrite, State.logAccess, State.memWrite, dcWriteEvent, State.atStep]

theorem performList_dcSteps_tx (s : State) (l : List (Byte × Nat × Word)) :
    (s.performList (dcSteps l)).tx = s.tx := by
  induction l generalizing s with
  | nil => rfl
  | cons x rest ih =>
    simp only [dcSteps, List.map_cons, State.performList]
    exact ih _

theorem performList_dcSteps_other (s : State) (l : List (Byte × Nat × Word)) (off : Nat)
    (h : ∀ x ∈ l, off ≠ x.2.1) : (s.performList (dcSteps l)).memRead .dc off = s.memRead .dc off := by
  induction l generalizing s with
  | nil => rfl
  | cons x rest ih =>
    have := ih ((s.atStep x.1).perform (.dcWrite x.2.1 x.2.2))
      (fun y hy => h y (List.mem_cons_of_mem _ hy))
    simp only [dcSteps, List.map_cons, State.performList] at this ⊢
    rw [this]
    exact State.memRead_memWrite_other (s.atStep x.1) (space := .dc) (space' := .dc) x.2.2 (.inr (h x (by simp)))

/-- With distinct offsets, each register written holds its own word at the end. -/
theorem performList_dcSteps_same (s : State) (l : List (Byte × Nat × Word)) (hd : (l.map fun x => x.2.1).Nodup) :
    ∀ x ∈ l, (s.performList (dcSteps l)).memRead .dc x.2.1 = x.2.2 := by
  induction l generalizing s with
  | nil => simp
  | cons x rest ih =>
    intro y hy
    simp only [List.map_cons, List.nodup_cons] at hd
    have hstep : s.performList (dcSteps (x :: rest))
        = ((s.atStep x.1).perform (.dcWrite x.2.1 x.2.2)).performList (dcSteps rest) := rfl
    rw [hstep]
    rcases List.mem_cons.1 hy with rfl | hy
    · rw [performList_dcSteps_other]
      · exact State.memRead_memWrite_same (s.atStep y.1) (space := .dc) _ _ (by decide)
      · intro z hz he
        apply hd.1
        rw [he]
        exact List.mem_map_of_mem (f := fun x : Byte × Nat × Word => x.2.1) hz
    · exact ih _ hd.2 y hy

/-! A read-modify-write, and what a list of accesses keeps. -/

theorem performList_cfg (s : State) (l : List (Byte × Access)) : (s.performList l).cfg = s.cfg := by
  rw [State.performList_frame]

theorem performList_epoch (s : State) (l : List (Byte × Access)) : (s.performList l).epoch = s.epoch := by
  rw [State.performList_frame]

theorem State.retire_memRead (s : State) (space : Space) (off : Nat) : s.retire.memRead space off = s.memRead space off := by
  cases space <;> rfl

theorem memRead_tx_congr {s t : State} {off : Nat} (h : s.tx = t.tx) (he : s.epoch = t.epoch) :
    s.memRead .tx off = t.memRead .tx off := by
  unfold State.memRead State.space
  simp only [h, he]

theorem performList_txModify_history (s : State) (k : Byte) (n : Nat) (m b : Byte) :
    (s.performList [(k, .txModify n m b)]).history = s.history ++
      [txReadEvent s.cfg k n (s.memRead .tx (txByteOffset s.cfg n)),
       txWriteEvent s.cfg k n (((s.memRead .tx (txByteOffset s.cfg n)).setWidth 8 &&& ~~~m) ||| (b &&& m))] := by
  simp [State.performList, State.perform, State.txModify, State.txWrite, State.txReadLogged, State.logAccess,
    State.memWrite, State.atStep, txReadEvent, txWriteEvent, State.memRead, State.space, State.txPayload]

theorem performList_txModify_dc (s : State) (k : Byte) (n : Nat) (m b : Byte) :
    (s.performList [(k, .txModify n m b)]).dc = s.dc := rfl

theorem performList_txModify_same (s : State) (k : Byte) (n : Nat) (m b : Byte) :
    (s.performList [(k, .txModify n m b)]).memRead .tx (txByteOffset s.cfg n) =
      (((s.memRead .tx (txByteOffset s.cfg n)).setWidth 8 &&& ~~~m) ||| (b &&& m)).setWidth 32 :=
  State.memRead_memWrite_same ((s.atStep k).txReadLogged n) (space := .tx) _ _ (by decide)

theorem performList_txModify_other (s : State) (k : Byte) (n : Nat) (m b : Byte) {off : Nat}
    (h : off ≠ txByteOffset s.cfg n) : (s.performList [(k, .txModify n m b)]).memRead .tx off = s.memRead .tx off :=
  State.memRead_memWrite_other ((s.atStep k).txReadLogged n) (space := .tx) (space' := .tx) _ (.inr h)

/-- A list of accesses depends on the configuration and on what it reads and records, and on nothing else. -/
theorem performList_congr (l : List (Byte × Access)) {s t : State} (h₁ : s.cfg = t.cfg) (h₂ : s.tx = t.tx)
    (h₃ : s.dc = t.dc) (h₄ : s.history = t.history) (h₅ : s.epoch = t.epoch) :
    (s.performList l).tx = (t.performList l).tx ∧ (s.performList l).history = (t.performList l).history := by
  induction l generalizing s t with
  | nil => exact ⟨h₂, h₄⟩
  | cons x rest ih =>
    obtain ⟨k, a⟩ := x
    rw [State.performList, State.performList]
    cases a
    all_goals
      apply ih
      all_goals simp [State.atStep, State.perform, State.txWrite, State.dcWrite, State.txModify, State.txPayload,
        State.txReadLogged, State.logAccess, State.memWrite, State.memRead, State.space, h₁, h₂, h₃, h₄, h₅]

/-! Single turns of the steps that are no register step. -/

theorem turn_solvePre {s : State} (hb : s.status.busy = true) (hs : s.seqStep = 0x01)
    (hm : (0x01 : Byte) ∈ stepList s.cfg s.latch.op) : sequencerTurn s = .next s.stepSolvePre.advance := by
  rw [sequencerTurn_of_busy hb]
  unfold sequencerStep
  rw [if_pos (by rw [hs]; simpa using hm), hs]
  rfl

theorem turn_solvePost {s : State} (hb : s.status.busy = true) (hs : s.seqStep = 0x02)
    (hm : (0x02 : Byte) ∈ stepList s.cfg s.latch.op) : sequencerTurn s = .next s.stepSolvePost.advance := by
  rw [sequencerTurn_of_busy hb]
  unfold sequencerStep
  rw [if_pos (by rw [hs]; simpa using hm), hs]
  rfl

theorem turn_pollPre {s : State} (hb : s.status.busy = true) (hs : s.seqStep = 0x16)
    (hm : (0x16 : Byte) ∈ stepList s.cfg s.latch.op) : sequencerTurn s = .next s.stepPollPre := by
  rw [sequencerTurn_of_busy hb]
  unfold sequencerStep
  rw [if_pos (by rw [hs]; simpa using hm), hs]
  rfl

theorem turn_pollPost {s : State} (hb : s.status.busy = true) (hs : s.seqStep = 0x17)
    (hm : (0x17 : Byte) ∈ stepList s.cfg s.latch.op) : sequencerTurn s = .next s.stepPollPost := by
  rw [sequencerTurn_of_busy hb]
  unfold sequencerStep
  rw [if_pos (by rw [hs]; simpa using hm), hs]
  rfl

theorem turn_mapFmt {s : State} (hb : s.status.busy = true) (hs : s.seqStep = 0x40)
    (hm : (0x40 : Byte) ∈ stepList s.cfg s.latch.op) : sequencerTurn s = .next s.stepMapFmt := by
  rw [sequencerTurn_of_busy hb]
  unfold sequencerStep
  rw [if_pos (by rw [hs]; simpa using hm), hs]
  rfl

theorem State.advance_of_following {s : State} {n : Byte} (h : following s.seqStep (stepList s.cfg s.latch.op) = some n) :
    s.advance = s.atStep n := by
  unfold State.advance State.atStep
  rw [h]

end Sys2Proof.Machine
end

