-- ==== Sys2Proof/Laws/Poll.lean ====
section
/-! SUPPORT. The lock oracle's answers in order, and what the polling steps 0x16 and 0x17 do over a run of answers. -/

namespace Sys2Proof.Machine

theorem lockAnswer_eq (s : State) : s.lockAnswer = s.lockAnswerAt 0 := by
  unfold State.lockAnswer State.lockAnswerAt
  cases h : s.lockAnswers <;> simp

theorem afterAnswers_zero (s : State) : s.afterAnswers 0 = s := by simp [State.afterAnswers]

theorem afterAnswers_add (s : State) (m n : Nat) : (s.afterAnswers m).afterAnswers n = s.afterAnswers (m + n) := by
  unfold State.afterAnswers
  simp only [List.drop_drop, List.length_drop]
  congr 1
  omega

theorem lockAnswered_eq (s : State) : s.lockAnswered = s.afterAnswers 1 := by
  unfold State.lockAnswered State.afterAnswers
  cases h : s.lockAnswers <;> simp

theorem lockAnswerAt_afterAnswers (s : State) (n k : Nat) :
    (s.afterAnswers n).lockAnswerAt k = s.lockAnswerAt (n + k) := by
  unfold State.afterAnswers State.lockAnswerAt
  simp only [List.length_drop, List.getD_eq_getElem?_getD, List.getElem?_drop]
  by_cases h : n + k < s.lockAnswers.length
  · have : k < s.lockAnswers.length - n := by omega
    simp [h, this]
  · have : ¬ k < s.lockAnswers.length - n := by omega
    simp only [h, this, if_false]
    congr 1
    omega

/-- The state after `n` failed reads of a lock register under a step. -/
def State.polled (s : State) (step : Byte) (reg n : Nat) : State :=
  { s.afterAnswers n with
    pollcnt := s.pollcnt + n
    history := s.history ++ (List.range n).map (fun k => lockEvent s.cfg step reg (s.lockAnswerAt k)) }

theorem polled_zero (s : State) (step : Byte) (reg : Nat) : s.polled step reg 0 = s := by
  simp [State.polled, afterAnswers_zero]

theorem polled_lockAnswer (s : State) (step : Byte) (reg n : Nat) :
    (s.polled step reg n).lockAnswer = s.lockAnswerAt n := by
  rw [lockAnswer_eq]
  exact lockAnswerAt_afterAnswers s n 0

theorem polled_lockReadLogged (s : State) {step : Byte} (reg n : Nat) (h : s.seqStep = step) :
    (s.polled step reg n).lockReadLogged reg =
      { s.polled step reg (n + 1) with pollcnt := s.pollcnt + n } := by
  unfold State.lockReadLogged State.logAccess
  rw [polled_lockAnswer, lockAnswered_eq]
  have e : (s.polled step reg n).afterAnswers 1 =
      { s.afterAnswers (n + 1) with
        pollcnt := (s.polled step reg n).pollcnt, history := (s.polled step reg n).history } := by
    rw [← afterAnswers_add]
    rfl
  rw [e]
  subst h
  simp only [State.polled, List.range_succ, List.map_append, List.map_cons, List.map_nil, ← List.append_assoc]
  rfl

/-- The n-th failed read counts, and times out when it is the N_POLL_MAX-th. -/
theorem polled_pollFailed (s : State) {step : Byte} (reg n : Nat) (c : Cause) (hs : s.seqStep = step) :
    ((s.polled step reg n).lockReadLogged reg).pollFailed c =
      if s.pollcnt + n + 1 = s.cfg.nPollMax then (s.polled step reg (n + 1)).raise c
      else s.polled step reg (n + 1) := by
  rw [polled_lockReadLogged _ _ _ hs]
  rfl

/-- Failed reads below the budget. -/
theorem run_failed_polls {s : State} (hb : s.status.busy = true) {step : Byte} {reg : Nat} (n : Nat)
    (hs : s.seqStep = step) (hsr : (step = 0x16 ∧ reg = 0x11) ∨ (step = 0x17 ∧ reg = 0x12))
    (hm : step ∈ stepList s.cfg s.latch.op) (hlt : s.pollcnt + n < s.cfg.nPollMax)
    (hf : ∀ k < n, reportsLock s.cfg (s.lockAnswerAt k) = false) : sequencerRun n s = .next (s.polled step reg n) := by
  induction n with
  | zero => rw [polled_zero]; rfl
  | succ n ih =>
    rw [sequencerRun_add n 1 (ih (by omega) (fun k hk => hf k (by omega)))]
    have hr : reportsLock (s.polled step reg n).cfg (s.polled step reg n).lockAnswer = false := by
      rw [polled_lockAnswer]
      exact hf n (by omega)
    have hne : ¬ s.pollcnt + n + 1 = s.cfg.nPollMax := by omega
    rcases hsr with ⟨rfl, rfl⟩ | ⟨rfl, rfl⟩
    · rw [sequencerRun_succ_of_turn 0 (turn_pollPre (s := s.polled 0x16 0x11 n) hb hs hm), sequencerRun_zero]
      unfold State.stepPollPre
      simp only [hr]
      rw [show regPrePllLock = 0x11 from rfl, polled_pollFailed _ _ _ _ hs, if_neg hne]
      rfl
    · rw [sequencerRun_succ_of_turn 0 (turn_pollPost (s := s.polled 0x17 0x12 n) hb hs hm), sequencerRun_zero]
      unfold State.stepPollPost
      simp only [hr]
      rw [show regPostPllLock = 0x12 from rfl, polled_pollFailed _ _ _ _ hs, if_neg hne]
      rfl

/-- Reads that fail until the budget is spent. -/
theorem run_poll_timeout {s : State} (hb : s.status.busy = true) {step : Byte} {reg : Nat} {c : Cause} (n : Nat)
    (hs : s.seqStep = step)
    (hsr : (step = 0x16 ∧ reg = 0x11 ∧ c = .lockTimeoutPre) ∨ (step = 0x17 ∧ reg = 0x12 ∧ c = .lockTimeoutPost))
    (hm : step ∈ stepList s.cfg s.latch.op) (heq : s.pollcnt + n + 1 = s.cfg.nPollMax)
    (hf : ∀ k < n + 1, reportsLock s.cfg (s.lockAnswerAt k) = false) :
    sequencerRun (n + 1) s = .next ((s.polled step reg (n + 1)).raise c) := by
  have hsr' : (step = 0x16 ∧ reg = 0x11) ∨ (step = 0x17 ∧ reg = 0x12) := by tauto
  rw [sequencerRun_add n 1 (run_failed_polls hb n hs hsr' hm (by omega) (fun k hk => hf k (by omega)))]
  have hr : reportsLock (s.polled step reg n).cfg (s.polled step reg n).lockAnswer = false := by
    rw [polled_lockAnswer]
    exact hf n (by omega)
  rcases hsr with ⟨rfl, rfl, rfl⟩ | ⟨rfl, rfl, rfl⟩
  · rw [sequencerRun_succ_of_turn 0 (turn_pollPre (s := s.polled 0x16 0x11 n) hb hs hm), sequencerRun_zero]
    unfold State.stepPollPre
    simp only [hr]
    rw [show regPrePllLock = 0x11 from rfl, polled_pollFailed _ _ _ _ hs, if_pos heq]
    rfl
  · rw [sequencerRun_succ_of_turn 0 (turn_pollPost (s := s.polled 0x17 0x12 n) hb hs hm), sequencerRun_zero]
    unfold State.stepPollPost
    simp only [hr]
    rw [show regPostPllLock = 0x12 from rfl, polled_pollFailed _ _ _ _ hs, if_pos heq]
    rfl

/-- Step 0x16: failed reads, then one that reports lock. -/
theorem run_poll_pre {s : State} (hb : s.status.busy = true) (n : Nat) (hs : s.seqStep = 0x16)
    (hm : (0x16 : Byte) ∈ stepList s.cfg s.latch.op) (hlt : s.pollcnt + n < s.cfg.nPollMax)
    (hf : ∀ k < n, reportsLock s.cfg (s.lockAnswerAt k) = false)
    (hok : reportsLock s.cfg (s.lockAnswerAt n) = true) :
    sequencerRun (n + 1) s = .next { s.polled 0x16 0x11 (n + 1) with
      status := { s.status with preLocked := true }, pollcnt := 0, seqStep := 0x17 } := by
  rw [sequencerRun_add n 1 (run_failed_polls hb n hs (.inl ⟨rfl, rfl⟩) hm hlt hf)]
  have hr : reportsLock (s.polled 0x16 0x11 n).cfg (s.polled 0x16 0x11 n).lockAnswer = true := by
    rw [polled_lockAnswer]
    exact hok
  rw [sequencerRun_succ_of_turn 0 (turn_pollPre (s := s.polled 0x16 0x11 n) hb hs hm), sequencerRun_zero]
  unfold State.stepPollPre
  simp only [hr, if_true]
  rw [show regPrePllLock = 0x11 from rfl, polled_lockReadLogged _ _ _ hs]
  rfl

/-- Step 0x17: failed reads, then one that reports lock. -/
theorem run_poll_post {s : State} (hb : s.status.busy = true) (n : Nat) (hs : s.seqStep = 0x17)
    (hm : (0x17 : Byte) ∈ stepList s.cfg s.latch.op) (hlt : s.pollcnt + n < s.cfg.nPollMax)
    (hf : ∀ k < n, reportsLock s.cfg (s.lockAnswerAt k) = false)
    (hok : reportsLock s.cfg (s.lockAnswerAt n) = true) :
    sequencerRun (n + 1) s = .next { s.polled 0x17 0x12 (n + 1) with
      status := { s.status with postLocked := true, busy := false, done := true },
      pollcnt := s.pollcnt + n, seqStep := 0 } := by
  rw [sequencerRun_add n 1 (run_failed_polls hb n hs (.inr ⟨rfl, rfl⟩) hm hlt hf)]
  have hr : reportsLock (s.polled 0x17 0x12 n).cfg (s.polled 0x17 0x12 n).lockAnswer = true := by
    rw [polled_lockAnswer]
    exact hok
  rw [sequencerRun_succ_of_turn 0 (turn_pollPost (s := s.polled 0x17 0x12 n) hb hs hm), sequencerRun_zero]
  unfold State.stepPollPost
  simp only [hr, if_true]
  rw [show regPostPllLock = 0x12 from rfl, polled_lockReadLogged _ _ _ hs]
  rfl

end Sys2Proof.Machine
end

