-- ==== Sys2Proof/Laws/Invariant.lean ====
section
/-! SUPPORT. Building blocks for the invariant `Consistent` of Safety.lean: which operations keep it. -/

namespace Sys2Proof.Machine

/-- `Consistent` looks at these fields only. -/
theorem Consistent.congr {s t : State} (h : Consistent s) (e1 : t.cfg = s.cfg) (e2 : t.cmd = s.cmd)
    (e3 : t.status.busy = s.status.busy) (e4 : t.status.done = s.status.done) (e5 : t.status.fail = s.status.fail)
    (e6 : t.seqStep = s.seqStep) (e7 : t.pollcnt = s.pollcnt) (e8 : t.pre = s.pre) (e9 : t.post = s.post)
    (e10 : t.cscResult = s.cscResult) (e11 : t.latch = s.latch) (e12 : spaceWf t.tx = true)
    (e13 : spaceWf t.dc = true) (e14 : t.rgbBank = s.rgbBank) : Consistent t := by
  cases h
  constructor <;> first
    | assumption
    | (simp only [e1, e2, e3, e4, e5, e6, e7, e8, e9, e10, e11, e14]; assumption)

/-- What the outside takes from its queues is not looked at. -/
theorem Consistent.queues {s : State} (h : Consistent s) (inputs : List Input) (turns : List Agent) :
    Consistent { s with inputs := inputs, turns := turns } :=
  h.congr rfl rfl rfl rfl rfl rfl rfl rfl rfl rfl rfl h.txWf h.dcWf rfl

theorem Consistent.retire {s : State} (h : Consistent s) : Consistent s.retire := by
  cases h
  constructor <;> first | assumption | simp [State.retire]

/-- Within CSC.LOAD, the step before a coefficient step is step 0x40 or a coefficient step. -/
theorem mem_coefSteps_of_following {a n : Byte} (h : following a ((0x40 : Byte) :: coefSteps) = some n) (ha : a ≠ 0x40) :
    a ∈ coefSteps := by
  unfold coefSteps at h ⊢
  simp only [following] at h
  split_ifs at h <;> simp_all

theorem Consistent.advance {s : State} (h : Consistent s) (hb : s.status.busy = true) (hne : s.seqStep ≠ 0x40) :
    Consistent s.advance := by
  unfold State.advance
  split
  · rename_i n hn
    have hmem := following_mem hn
    have coef := h.coefYuv hb
    cases h
    constructor
    case idleStep => exact fun hb' => by simp [hb] at hb'
    case busyStep => exact fun _ => hmem
    case coefYuv =>
      intro _ hc
      rw [(opcode_of_step hmem).1 hc] at hn
      exact coef (mem_coefSteps_of_following hn hne)
    all_goals assumption
  · exact h.retire

/-- A sequencer fault. -/
theorem Consistent.raise_sequencer {s : State} (h : Consistent s) {c : Cause}
    (hc : c = .badFormat ∨ c = .lockTimeoutPre ∨ c = .lockTimeoutPost) : Consistent (s.raise c) := by
  cases h
  rcases hc with rfl | rfl | rfl <;>
    (constructor <;> first | assumption | simp [State.raise, State.faultEffect])

/-- An issue fault; the two that set DONE and FAIL are raised while idle. -/
theorem Consistent.raise_issue {s : State} (h : Consistent s) {c : Cause}
    (hc : c = .cmdBusy ∨ ((c = .illegalCmd ∨ c = .badOperand) ∧ s.status.busy = false)) : Consistent (s.raise c) := by
  cases h
  rcases hc with rfl | ⟨rfl | rfl, hb⟩
  · constructor <;> assumption
  all_goals
    constructor
    case busyNotDone => exact fun h => absurd (hb.symm.trans h) (by decide)
    case failDone => exact fun _ => rfl
    all_goals assumption

theorem Consistent.perform {s : State} (h : Consistent s) (a : Access) : Consistent (s.perform a) := by
  have hw := State.perform_wf s a h.txWf h.dcWf
  have hf := State.perform_frame s a
  apply h.congr <;> first | exact hw.1 | exact hw.2 | (rw [hf])

theorem Consistent.lockReadLogged {s : State} (h : Consistent s) (n : Nat) : Consistent (s.lockReadLogged n) := by
  unfold State.lockReadLogged State.logAccess State.lockAnswered
  cases s.lockAnswers <;> (apply h.congr <;> first | rfl | exact h.txWf | exact h.dcWf)

/-- A failed poll of a running wait. -/
theorem Consistent.pollFailed {s : State} (h : Consistent s) (hb : s.status.busy = true)
    (hop : s.latch.op = 0x04 ∨ s.latch.op = 0x05) {c : Cause} (hc : c = .lockTimeoutPre ∨ c = .lockTimeoutPost) :
    Consistent (s.pollFailed c) := by
  have hp := h.polling hb hop
  cases h
  unfold State.pollFailed
  simp only []
  split
  · rcases hc with rfl | rfl <;>
      (constructor <;> first
        | assumption
        | simp [State.raise, State.faultEffect])
  · constructor
    case pollBound => show s.pollcnt + 1 ≤ s.cfg.nPollMax; omega
    case polling => intro _ _; show s.pollcnt + 1 < s.cfg.nPollMax; simp only [] at *; omega
    all_goals assumption

/-- What MAPFMT writes for a row of FMT_MAP. -/
theorem mapResult_valid (c : Config) (row : FmtRow) (enc : Word) :
    (mapResult c row enc).valid = true ∧ (mapResult c row enc).isYuv = row.isYuv ∧
      ((mapResult c row enc).isYuv = true ↔ (mapResult c row enc).tableSel ≠ 3) := by
  unfold mapResult tableSelect
  refine ⟨rfl, rfl, ?_⟩
  cases row.isYuv
  · simp
  · simp only [true_iff, ite_true]
    split_ifs <;> decide

/-- Writing CSC_RESULT at step 0x40. -/
theorem Consistent.setCscResult {s : State} (h : Consistent s) {r : CscResult}
    (hr₁ : r.valid = false → r = CscResult.reset) (hr₂ : r.valid = true → (r.isYuv = true ↔ r.tableSel ≠ 3))
    (hne : s.seqStep = 0x40) : Consistent { s with cscResult := r } := by
  cases h
  constructor
  case coefYuv =>
    intro _ hc
    rw [show ({ s with cscResult := r } : State).seqStep = 0x40 from hne] at hc
    exact absurd hc (by decide)
  all_goals assumption

/-- Acceptance of a command that starts the sequencer. -/
theorem Consistent.start {s : State} (h : Consistent s) {i : Instr} (hi : i.wf = true) {st : Status} {p : Nat}
    {first : Byte} (hd : st.done = false) (hf : st.fail = false)
    (hp : p = s.pollcnt ∧ i.opcode ≠ 0x04 ∧ i.opcode ≠ 0x05 ∨ p = 0) (hm : first ∈ stepList s.cfg i.opcode)
    (hnc : first ∉ coefSteps) :
    Consistent (({ s.accept (encode i) with status := st, pollcnt := p } : State).start first) := by
  have e1 : (encode i).extractLsb' 0 8 = i.opcode := (Laws.EncodeFields.fields_of_word i.opcode i.sel).1
  have e2 : (encode i).extractLsb' 8 8 = i.sel := (Laws.EncodeFields.fields_of_word i.opcode i.sel).2.1
  have bound : p ≤ s.cfg.nPollMax := by
    have := h.pollBound
    omega
  have poll : i.opcode = 0x04 ∨ i.opcode = 0x05 → p < s.cfg.nPollMax := by
    have := pollBound_of_valid h.cfgValid
    rcases hp with ⟨_, n⟩ | rfl
    · exact fun hop => absurd hop (not_or.2 n)
    · exact fun _ => this
  cases h
  constructor
  case busyNotDone => exact fun _ => hd
  case failDone => exact fun h => absurd (hf.symm.trans h) (by decide)
  case idleStep => exact fun h => by cases h
  case busyStep =>
    intro _
    show first ∈ stepList s.cfg ((encode i).extractLsb' 0 8)
    rw [e1]
    exact hm
  case accepted => exact ⟨i, hi, rfl, e1, e2⟩
  case pollBound => exact bound
  case polling =>
    intro _ hop
    rw [← e1] at poll
    exact poll hop
  case coefYuv => exact fun _ hc => absurd hc hnc
  all_goals assumption

/-- Acceptance of a command that completes at once. -/
theorem Consistent.complete {s : State} (h : Consistent s) (hb : s.status.busy = false) {i : Instr} (hi : i.wf = true)
    (e : Err) : Consistent (({ s.accept (encode i) with err := e } : State).complete) := by
  have e1 : (encode i).extractLsb' 0 8 = i.opcode := (Laws.EncodeFields.fields_of_word i.opcode i.sel).1
  have e2 : (encode i).extractLsb' 8 8 = i.sel := (Laws.EncodeFields.fields_of_word i.opcode i.sel).2.1
  have hbb : (({ s.accept (encode i) with err := e } : State).complete).status.busy = false := hb
  have hstep := h.idleStep hb
  cases h
  constructor
  case busyNotDone => exact fun h => by rw [hbb] at h; cases h
  case failDone => exact fun _ => rfl
  case idleStep => exact fun _ => hstep
  case busyStep => exact fun h => by rw [hbb] at h; cases h
  case accepted => exact ⟨i, hi, rfl, e1, e2⟩
  case polling => exact fun h => by rw [hbb] at h; cases h
  case coefYuv => exact fun h => by rw [hbb] at h; cases h
  all_goals assumption

end Sys2Proof.Machine
end

