-- ==== Sys2Proof/Laws/Program.lean ====
section
/-! SUPPORT. The accesses of steps 0x03 to 0x15 (40_pll.md R145) and what they leave in the HDMI block. -/

namespace Sys2Proof.Machine

/-- The writes of steps 0x05 to 0x0F: step, logical register, payload. -/
def programWritesA (s : State) : List (Byte × Nat × Byte) :=
  [ (0x05, 0x01, s.pre.prediv), (0x06, 0x02, s.pre.fbdiv.extractLsb' 0 8), (0x07, 0x03, s.pre.fbdiv.extractLsb' 8 8),
    (0x08, 0x04, if s.pre.fracEn then 0x01 else 0x00), (0x09, 0x05, s.pre.fracDiv.extractLsb' 0 8),
    (0x0A, 0x06, s.pre.fracDiv.extractLsb' 8 8), (0x0B, 0x07, s.pre.fracDiv.extractLsb' 16 8),
    (0x0C, 0x08, s.pre.divset.extractLsb' 0 8), (0x0D, 0x09, s.pre.divset.extractLsb' 8 8),
    (0x0E, 0x0A, s.pre.divset.extractLsb' 16 8), (0x0F, 0x0B, s.pre.divset.extractLsb' 24 8) ]

/-- The writes of steps 0x11 to 0x15. -/
def programWritesB (s : State) : List (Byte × Nat × Byte) :=
  [ (0x11, 0x0D, s.post.prediv), (0x12, 0x0E, s.post.fbdiv.extractLsb' 0 8), (0x13, 0x0F, s.post.fbdiv.extractLsb' 8 8),
    (0x14, 0x10, s.post.postdiv), (0x15, 0x0C, postCtrlByte s.cfg s.post.postdivEn) ]

/-- The nineteen register steps. -/
def programAccesses (s : State) : List (Byte × Access) :=
  [(0x03, .txModify 0x00 s.cfg.prePdMask s.cfg.prePdMask)] ++ ([(0x04, .txModify 0x0C s.cfg.postPdMask s.cfg.postPdMask)]
    ++ (txSteps (programWritesA s) ++ ([(0x10, .txModify 0x00 s.cfg.prePdMask 0)] ++ txSteps (programWritesB s))))

/-- A step of the PLL family makes the access `pllAccess` gives. -/
theorem stepAccess_of_pll {s : State} {n : Byte} {a : Access} (h : pllAccess s.cfg s.pre s.post n.toNat = some a) :
    stepAccess (s.atStep n) = some a := by
  have h' : pllAccess (s.atStep n).cfg (s.atStep n).pre (s.atStep n).post (s.atStep n).seqStep.toNat = some a := h
  simp only [stepAccess, h']

/-- A run of the nineteen steps, as part of a longer list or not. -/
theorem run_program_steps {s : State} (p q : List Byte) (hb : s.status.busy = true)
    (hl : stepList s.cfg s.latch.op = p ++ (programSteps ++ q)) (h3 : s.seqStep = 0x03) :
    sequencerRun 19 s = .next (match q.head? with
      | none => (s.performList (programAccesses s)).retire
      | some n => (s.performList (programAccesses s)).atStep n) := by
  have hlen : (programAccesses s).length = 19 := rfl
  have hmap : (programAccesses s).map Prod.fst = programSteps := rfl
  have ha : ∀ x ∈ programAccesses s, isRegisterStep x.1 = true ∧ stepAccess (s.atStep x.1) = some x.2 := by
    intro x hx
    have all : ∀ x ∈ programAccesses s, isRegisterStep x.1 = true ∧
        pllAccess s.cfg s.pre s.post x.1.toNat = some x.2 := by
      simp only [programAccesses, txSteps, programWritesA, programWritesB, List.map_cons, List.map_nil, List.cons_append,
        List.nil_append, List.forall_mem_cons]
      and_intros <;> first | rfl | simp
    obtain ⟨hreg, hacc⟩ := all x hx
    exact ⟨hreg, stepAccess_of_pll hacc⟩
  rw [← hlen]
  exact run_registers (p := p) (q := q) hb (by rw [hmap]; exact hl) (stepList_nodup _ _) ha (by rw [hmap, h3]; rfl)

theorem performList_program_dc (s : State) : (s.performList (programAccesses s)).dc = s.dc := by
  simp only [programAccesses, performList_append, performList_txSteps_dc, performList_txModify_dc]

/-! Payloads of the read-modify-writes. -/

theorem modify_set (p m : Byte) : (p &&& ~~~m) ||| (m &&& m) = p ||| m := by
  apply BitVec.eq_of_getLsbD_eq
  intro i hi
  simp [hi]
  cases p[i] <;> cases m[i] <;> simp

theorem modify_clear (p m : Byte) : (p &&& ~~~m) ||| (0 &&& m) = p &&& ~~~m := by simp

theorem clear_after_set (p m : Byte) : (p ||| m) &&& ~~~m = p &&& ~~~m := by
  apply BitVec.eq_of_getLsbD_eq
  intro i hi
  simp [hi]
  cases p[i] <;> cases m[i] <;> simp

/-- The registers below 0x13 have distinct offsets. -/
theorem pllOffset_ne {c : Config} (hv : configValid c = true) {a b : Nat} (ha : a ≤ 0x12) (hb : b ≤ 0x12) (hne : a ≠ b) :
    txByteOffset c a ≠ txByteOffset c b :=
  fun h => hne (txByteOffset_injective hv (mem_txRegisters_pll _ ha) (mem_txRegisters_pll _ hb) h)

theorem programWritesA_regs (s : State) : ∀ x ∈ programWritesA s, 0x01 ≤ x.2.1 ∧ x.2.1 ≤ 0x0B := by
  simp [programWritesA]

theorem programWritesB_regs (s : State) : ∀ x ∈ programWritesB s, 0x0C ≤ x.2.1 ∧ x.2.1 ≤ 0x10 := by
  simp [programWritesB]

theorem programWritesA_nodup {s : State} (hv : configValid s.cfg = true) :
    ((programWritesA s).map fun x => txByteOffset s.cfg x.2.1).Nodup := by
  have : (programWritesA s).map (fun x => txByteOffset s.cfg x.2.1) =
      ([1, 2, 3, 4, 5, 6, 7, 8, 9, 0xA, 0xB] : List Nat).map (txByteOffset s.cfg) := rfl
  rw [this]
  refine List.Nodup.map_on (fun a ha b hb h => ?_) (by decide)
  have bound : ∀ n ∈ ([1, 2, 3, 4, 5, 6, 7, 8, 9, 0xA, 0xB] : List Nat), n ≤ 0x12 := by decide
  exact txByteOffset_injective hv (mem_txRegisters_pll _ (bound a ha)) (mem_txRegisters_pll _ (bound b hb)) h

theorem programWritesB_nodup {s : State} (hv : configValid s.cfg = true) :
    ((programWritesB s).map fun x => txByteOffset s.cfg x.2.1).Nodup := by
  have : (programWritesB s).map (fun x => txByteOffset s.cfg x.2.1) =
      ([0xD, 0xE, 0xF, 0x10, 0xC] : List Nat).map (txByteOffset s.cfg) := rfl
  rw [this]
  refine List.Nodup.map_on (fun a ha b hb h => ?_) (by decide)
  have bound : ∀ n ∈ ([0xD, 0xE, 0xF, 0x10, 0xC] : List Nat), n ≤ 0x12 := by decide
  exact txByteOffset_injective hv (mem_txRegisters_pll _ (bound a ha)) (mem_txRegisters_pll _ (bound b hb)) h

/-- Everything the nineteen accesses leave: the history, and what each register reads as. -/
theorem performList_program {s : State} (hv : configValid s.cfg = true) {p0 pC : Byte}
    (hp0 : p0 = (s.memRead .tx (txByteOffset s.cfg 0x00)).setWidth 8)
    (hpC : pC = (s.memRead .tx (txByteOffset s.cfg 0x0C)).setWidth 8) :
    (s.performList (programAccesses s)).history = s.history ++
      ([ txReadEvent s.cfg 0x03 0x00 (s.memRead .tx (txByteOffset s.cfg 0x00)),
         txWriteEvent s.cfg 0x03 0x00 (p0 ||| s.cfg.prePdMask),
         txReadEvent s.cfg 0x04 0x0C (s.memRead .tx (txByteOffset s.cfg 0x0C)),
         txWriteEvent s.cfg 0x04 0x0C (pC ||| s.cfg.postPdMask) ]
       ++ (programWritesA s).map (fun x => txWriteEvent s.cfg x.1 x.2.1 x.2.2)
       ++ [ txReadEvent s.cfg 0x10 0x00 ((p0 ||| s.cfg.prePdMask).setWidth 32),
            txWriteEvent s.cfg 0x10 0x00 (p0 &&& ~~~s.cfg.prePdMask) ]
       ++ (programWritesB s).map (fun x => txWriteEvent s.cfg x.1 x.2.1 x.2.2)) ∧
    (s.performList (programAccesses s)).memRead .tx (txByteOffset s.cfg 0x00) = (p0 &&& ~~~s.cfg.prePdMask).setWidth 32 ∧
    (∀ x ∈ programWritesA s ++ programWritesB s,
      (s.performList (programAccesses s)).memRead .tx (txByteOffset s.cfg x.2.1) = x.2.2.setWidth 32) ∧
    (∀ off, (∀ n, n ≤ 0x10 → off ≠ txByteOffset s.cfg n) →
      (s.performList (programAccesses s)).memRead .tx off = s.memRead .tx off) := by
  have hA := programWritesA_regs s
  have hB := programWritesB_regs s
  simp only [programAccesses, performList_append]
  obtain ⟨s1, h1⟩ : ∃ x, x = s.performList [(0x03, .txModify 0x00 s.cfg.prePdMask s.cfg.prePdMask)] := ⟨_, rfl⟩
  rw [← h1]
  obtain ⟨s2, h2⟩ : ∃ x, x = s1.performList [(0x04, .txModify 0x0C s.cfg.postPdMask s.cfg.postPdMask)] := ⟨_, rfl⟩
  rw [← h2]
  obtain ⟨s3, h3⟩ : ∃ x, x = s2.performList (txSteps (programWritesA s)) := ⟨_, rfl⟩
  rw [← h3]
  obtain ⟨s4, h4⟩ : ∃ x, x = s3.performList [(0x10, .txModify 0x00 s.cfg.prePdMask 0)] := ⟨_, rfl⟩
  rw [← h4]
  obtain ⟨s5, h5⟩ : ∃ x, x = s4.performList (txSteps (programWritesB s)) := ⟨_, rfl⟩
  rw [← h5]
  have c1 : s1.cfg = s.cfg := by rw [h1]; exact performList_cfg _ _
  have c2 : s2.cfg = s.cfg := by rw [h2]; exact (performList_cfg _ _).trans c1
  have c3 : s3.cfg = s.cfg := by rw [h3]; exact (performList_cfg _ _).trans c2
  have c4 : s4.cfg = s.cfg := by rw [h4]; exact (performList_cfg _ _).trans c3
  -- registers the two lists of plain writes leave alone
  have keepA : ∀ off, (∀ n, 0x01 ≤ n → n ≤ 0x0B → off ≠ txByteOffset s.cfg n) →
      s3.memRead .tx off = s2.memRead .tx off := by
    intro off ho
    rw [h3, performList_txSteps_other]
    intro x hx
    rw [c2]
    exact ho _ (hA x hx).1 (hA x hx).2
  have keepB : ∀ off, (∀ n, 0x0C ≤ n → n ≤ 0x10 → off ≠ txByteOffset s.cfg n) →
      s5.memRead .tx off = s4.memRead .tx off := by
    intro off ho
    rw [h5, performList_txSteps_other]
    intro x hx
    rw [c4]
    exact ho _ (hB x hx).1 (hB x hx).2
  have r1 : s1.memRead .tx (txByteOffset s.cfg 0) = (p0 ||| s.cfg.prePdMask).setWidth 32 := by
    rw [h1, performList_txModify_same, ← hp0, modify_set]
  have r2 : s2.memRead .tx (txByteOffset s.cfg 0) = (p0 ||| s.cfg.prePdMask).setWidth 32 := by
    rw [h2, performList_txModify_other _ _ _ _ _
      (by rw [c1]; exact pllOffset_ne hv (by omega) (by omega) (by omega)), r1]
  have r3 : s3.memRead .tx (txByteOffset s.cfg 0) = (p0 ||| s.cfg.prePdMask).setWidth 32 := by
    rw [keepA _ (fun n h₁ h₂ => pllOffset_ne hv (by omega) (by omega) (by omega)), r2]
  have back : ((p0 ||| s.cfg.prePdMask).setWidth 32).setWidth 8 &&& ~~~s.cfg.prePdMask = p0 &&& ~~~s.cfg.prePdMask := by
    rw [show ((p0 ||| s.cfg.prePdMask).setWidth 32).setWidth 8 = p0 ||| s.cfg.prePdMask by simp, clear_after_set]
  have r4 : s4.memRead .tx (txByteOffset s.cfg 0) = (p0 &&& ~~~s.cfg.prePdMask).setWidth 32 := by
    have := performList_txModify_same s3 0x10 0x00 s.cfg.prePdMask 0
    rw [c3, r3, modify_clear, ← h4, back] at this
    exact this
  have q1 : s1.memRead .tx (txByteOffset s.cfg 0x0C) = s.memRead .tx (txByteOffset s.cfg 0x0C) := by
    rw [h1, performList_txModify_other _ _ _ _ _ (pllOffset_ne hv (by omega) (by omega) (by omega))]
  refine ⟨?_, ?_, ?_, ?_⟩
  · rw [h5, performList_txSteps_history, h4, performList_txModify_history, h3, performList_txSteps_history, h2,
      performList_txModify_history, h1, performList_txModify_history]
    rw [← h1, ← h2, ← h3, ← h4, c1, c2, c3, c4, r3, q1, ← hp0, ← hpC, modify_set, modify_set, modify_clear, back]
    simp only [List.append_assoc, List.cons_append, List.nil_append]
  · rw [keepB _ (fun n h₁ h₂ => pllOffset_ne hv (by omega) (by omega) (by omega)), r4]
  · intro x hx
    rcases List.mem_append.1 hx with hx | hx
    · have hr := hA x hx
      rw [keepB _ (fun n h₁ h₂ => pllOffset_ne hv (by omega) (by omega) (by omega)), h4,
        performList_txModify_other _ _ _ _ _ (by rw [c3]; exact pllOffset_ne hv (by omega) (by omega) (by omega)), h3,
        ← c2]
      exact performList_txSteps_same _ _ (by rw [c2]; exact programWritesA_nodup hv) _ hx
    · rw [h5, ← c4]
      exact performList_txSteps_same _ _ (by rw [c4]; exact programWritesB_nodup hv) _ hx
  · intro off ho
    rw [keepB _ (fun n _ h => ho n (by omega)), h4, performList_txModify_other _ _ _ _ _ (by rw [c3]; exact ho _ (by omega)),
      keepA _ (fun n _ h => ho n (by omega)), h2, performList_txModify_other _ _ _ _ _ (by rw [c1]; exact ho _ (by omega)),
      h1, performList_txModify_other _ _ _ _ _ (ho _ (by omega))]

end Sys2Proof.Machine
end

