-- ==== Sys2Proof/Laws/Solve.lean ====
section
/-! SUPPORT. What the two solvers compute under a valid configuration (40_pll.md R132, R135, R140, R141). -/

namespace Sys2Proof.Machine

/-- Every fractional value fits PRE_FRAC, so that FRACDIV holds it whole. -/
theorem preFraction_fits {c : Config} (hv : configValid c = true) (r : Nat) : preFraction c.consts r < 2 ^ 26 := by
  have h := ((configValid_iff c).1 hv).2.1
  simp only [constantsOk, Bool.and_eq_true, decide_eq_true_eq] at h
  obtain ⟨⟨⟨⟨⟨⟨-, hHi⟩, hLo⟩, -⟩, -⟩, fHi⟩, fLo⟩ := h
  have fits : ∀ q m, 0 < q → m = r % q → (q - 1) * c.consts.fracMul / c.consts.fracDivisor < 2 ^ 26 →
      m * c.consts.fracMul / c.consts.fracDivisor < 2 ^ 26 := by
    rintro q m hq rfl hf
    have := Nat.mod_lt r hq
    exact lt_of_le_of_lt (Nat.div_le_div_right (Nat.mul_le_mul_right _ (by omega))) hf
  unfold preFraction
  split
  · unfold preRemainder preQuantum
    split
    · exact fits _ _ hHi rfl fHi
    · exact fits _ _ hLo rfl fLo
  · decide

/-- FRACDIV is the fractional value. -/
theorem solvePre_fracDiv {c : Config} (hv : configValid c = true) (r : Nat) :
    (solvePre c r).fracDiv.toNat = preFraction c.consts r :=
  (BitVec.toNat_ofNat _ _).trans (Nat.mod_eq_of_lt (preFraction_fits hv r))

/-- The scan of six thresholds, written out. -/
theorem thresholdScan_six (v : Vector Word 6) (r : Nat) : thresholdScan r v.toList =
    if r ≤ v[0].toNat then 0 else if r ≤ v[1].toNat then 1 else if r ≤ v[2].toNat then 2
    else if r ≤ v[3].toNat then 3 else if r ≤ v[4].toNat then 4 else if r ≤ v[5].toNat then 5 else 6 := by
  obtain ⟨⟨l⟩, hl⟩ := v
  match l, hl with
  | [a, b, c, d, e, f], _ =>
    simp only [Vector.toList, thresholdScan, Vector.getElem_mk, List.getElem_toArray, List.getElem_cons_zero,
      List.getElem_cons_succ, ← not_lt, ite_not]
    split_ifs <;> rfl

/-- OOR is set exactly for a rate above the last threshold. -/
theorem postOutOfRange_iff {c : Config} (hv : configValid c = true) (r : Word) :
    postOutOfRange c.consts r.toNat = decide (r > c.consts.postThr[5]) := by
  have ascending := thresholds_of_valid hv
  have hn := (counts_of_valid hv).2.2.1
  simp only [BitVec.lt_def] at ascending
  simp only [postOutOfRange, thresholdScan_six, hn, gt_iff_lt, BitVec.lt_def]
  split_ifs <;> simp <;> omega

end Sys2Proof.Machine
end

