-- ==== Sys2Proof/Laws/Step.lean ====
section
/-! SUPPORT. What a step can do, said once (`step_cases`), and what the outside's operations can do: issue, host reads
and writes, foreign writes. -/

namespace Sys2Proof.Machine

/-- A command issued while BUSY raises CmdBusy. -/
theorem exec_of_busy (i : Instr) {s : State} (h : s.status.busy = true) : exec i s = .next (s.raise .cmdBusy) := by
  cases i <;> simp [exec, execNop, execClrerr, execPllSolvepre, execPllSolvepost, execPllProgram, execPllWaitlock,
    execPllConfigure, execVtTx, execVtDc, execCscMapfmt, execCscLoad, State.issue, h]

/-- Issue always answers a next state. -/
theorem exec_next (i : Instr) (s : State) : ∃ t, exec i s = .next t := by
  cases i <;> simp only [exec, execNop, execClrerr, execPllSolvepre, execPllSolvepost, execPllProgram, execPllWaitlock,
    execPllConfigure, execVtTx, execVtDc, execCscMapfmt, execCscLoad, State.issue] <;> split <;> exact ⟨_, rfl⟩

/-- A host write always answers a next state. -/
theorem windowWrite_next (index : Nat) (v : Word) (s : State) : ∃ t, windowWrite index v s = .next t := by
  unfold windowWrite issueWord
  split
  · split
    · exact ⟨_, rfl⟩
    · split
      · exact ⟨_, rfl⟩
      · exact exec_next _ _
  · exact ⟨_, rfl⟩
  · exact ⟨_, rfl⟩

/-- The index of a register of the engine window. -/
def EngReg.index : EngReg → Nat
  | .cmd => 0x00
  | .status => 0x01
  | .err => 0x02
  | .seq => 0x03
  | .pollcnt => 0x04
  | .rate => 0x05
  | .prePrediv => 0x06
  | .preFbdiv => 0x07
  | .preFrac => 0x08
  | .preDivset => 0x09
  | .postSel => 0x0A
  | .postThresh => 0x0B
  | .postPrediv => 0x0C
  | .postFbdiv => 0x0D
  | .postPostdiv => 0x0E
  | .postPostdivEn => 0x0F
  | .modeHdisplay => 0x10
  | .modeHsyncStart => 0x11
  | .modeHsyncEnd => 0x12
  | .modeHtotal => 0x13
  | .modeVdisplay => 0x14
  | .modeVsyncStart => 0x15
  | .modeVsyncEnd => 0x16
  | .modeVtotal => 0x17
  | .modeFlags => 0x18
  | .cscFormat => 0x20
  | .cscEncoding => 0x21
  | .cscResult => 0x22

theorem engRegister_index (r : EngReg) : engRegister r.index = some r := by cases r <;> rfl

theorem index_of_engRegister {index : Nat} {r : EngReg} (h : engRegister index = some r) : index = r.index := by
  unfold engRegister at h
  split at h <;> first | (cases h; rfl) | cases h

/-- The outside's turn on an input. -/
theorem step_outside {s : State} {i : Input} (hv : configValid s.cfg = true) (h : s.aboutTo i) :
    step s = performInput i s.turnTaken s.inputTaken := by
  obtain ⟨ha, hi⟩ := h
  cases hin : s.inputs with
  | nil => simp [hin] at hi
  | cons j rest =>
    simp only [hin, List.head?_cons, Option.some.injEq] at hi
    subst hi
    simp [step, hv, agentTurn, ha, outsideTurn, hin, State.inputTaken, State.turnTaken]

/-- A step that answers a next state is one of these. -/
theorem step_cases {s t : State} (hs : step s = .next t) :
    configValid s.cfg = true ∧
      ((s.nextAgent = .sequencer ∧ sequencerTurn s.turnTaken = .next t) ∨
       (s.nextAgent = .outside ∧ s.inputs = [] ∧ t = s.turnTaken) ∨
       (∃ i, s.aboutTo i ∧ performInput i s.turnTaken s.inputTaken = .next t)) := by
  unfold step at hs
  split at hs
  · rename_i hv
    refine ⟨hv, ?_⟩
    unfold agentTurn at hs
    split at hs <;> rename_i ha
    · exact .inl ⟨ha, hs⟩
    · right
      unfold outsideTurn at hs
      rw [show s.turnTaken.inputs = s.inputs from rfl] at hs
      split at hs
      · rename_i hi
        exact .inl ⟨ha, hi, (Host.Outcome.next.inj hs).symm⟩
      · rename_i i rest hi
        refine .inr ⟨i, ⟨ha, by rw [hi]; rfl⟩, ?_⟩
        rw [← hs]
        unfold State.inputTaken State.turnTaken
        rw [hi]
        rfl
  · cases hs

/-- A turn of the sequencer. -/
theorem sequencerTurn_cases {s t : State} (h : sequencerTurn s = .next t) :
    (s.status.busy = false ∧ t = s) ∨ (s.status.busy = true ∧ sequencerStep s = .next t) := by
  unfold sequencerTurn at h
  split at h <;> rename_i hb
  · exact .inr ⟨hb, h⟩
  · exact .inl ⟨by simpa using hb, (Host.Outcome.next.inj h).symm⟩

/-- A foreign write is made, has no effect, or is refused while BUSY. -/
theorem foreignWrite_cases (space : Space) (off : Nat) (v : Word) (s : State) :
    foreignWrite space off v s = .next (s.memWrite space off v) ∨ foreignWrite space off v s = .next s ∨
      (foreignWrite space off v s = .refused .exclusiveWindow ∧ s.status.busy = true ∧
        commandTouches s space off = true) := by
  unfold foreignWrite
  split
  · rename_i h
    simp only [Bool.and_eq_true] at h
    exact .inr (.inr ⟨rfl, h⟩)
  · split
    · exact .inr (.inl rfl)
    · exact .inl rfl

/-- The sequencer refuses nothing. -/
theorem sequencerTurn_not_refused (s : State) (r : Refusal) : sequencerTurn s ≠ .refused r := by
  unfold sequencerTurn sequencerStep State.stepRegister
  split_ifs
  · split <;> first | (intro h; cases h) | (split <;> intro h <;> cases h)
  · intro h; cases h
  · intro h; cases h

/-- The outside refuses nothing but a write in the exclusive window. -/
theorem performInput_refused {i : Input} {again s : State} {r : Refusal} (h : performInput i again s = .refused r) :
    r = .exclusiveWindow := by
  have foreign : ∀ space off v, foreignWrite space off v s = .refused r → r = .exclusiveWindow := by
    intro space off v h
    rcases foreignWrite_cases space off v s with e | e | ⟨e, -⟩ <;> rw [e] at h <;> cases h
    rfl
  match i with
  | .host (.wr index v) =>
    obtain ⟨t, e⟩ := windowWrite_next index v s
    cases e.symm.trans h
  | .host (.rd _) | .host .wait | .reset => cases h
  | .foreignTx index v => exact foreign .tx (4 * index) v h
  | .foreignDc index v => exact foreign .dc (4 * index) v h

/-- The configuration alone decides whether a step is refused for it. -/
theorem step_invalidConfiguration_iff (s : State) :
    step s = .refused .invalidConfiguration ↔ configValid s.cfg = false := by
  constructor
  · intro h
    by_contra hv
    simp only [step, Bool.not_eq_false] at hv h
    rw [if_pos hv] at h
    unfold agentTurn outsideTurn at h
    split at h
    · exact sequencerTurn_not_refused _ _ h
    · split at h
      · cases h
      · cases performInput_refused h
  · intro h
    simp [step, h]

end Sys2Proof.Machine
end

