-- ==== Sys2Proof/Tests/Slice0.lean ====
section
/-! SUPPORT. The model's own tests. Expected values are those of 95_test_vectors.md (vectors named in the test) or of the
rule named; then one witness for each obligation that has hypotheses. -/

namespace Sys2Proof.Tests

-- One theorem at a time: many kernel evaluations at once would each take a thread.
set_option Elab.async false

open Sys2Proof.Machine

/-! ## The test configuration of 95_test_vectors.md part 0 -/

def row (i : Nat) : PostRow :=
  { prediv := BitVec.ofNat 8 (0x10 + i), fbdiv := BitVec.ofNat 16 (0x1230 + i), postdiv := BitVec.ofNat 8 (0x40 + i),
    postdivEn := BitVec.ofNat 8 (i + 1) }

def tableA : Vector Word 16 :=
  #v[1196, 0, 1640, 1196, -404, -836, 1196, 2076, 0, -916224, 558336, -1202944, 64, 940, 64, 960]

def tableB : Vector Word 16 :=
  #v[-1, -32768, 32767, 65535, 65536, -65537, 0x12345678, -0x12345678, -1, 0x7FFFFFFF, 0x80000000, 0, 0xFFFF, 0x10000,
     1, -2]

def tableC : Vector Word 16 := #v[1, 2, 3, 4, 5, 6, 7, 8, 9, 10, 11, 12, 13, 14, 15, 16]

def formats : List FmtRow :=
  [ { key := 0x3231564E, code := 0x11, swizzle := .argb, uvSwizzle := false, isYuv := true },
    { key := 0x3132564E, code := 0x11, swizzle := .argb, uvSwizzle := true, isYuv := true },
    { key := 0x55595659, code := 0x08, swizzle := .argb, uvSwizzle := true, isYuv := true },
    { key := 0x32315659, code := 0x0F, swizzle := .argb, uvSwizzle := false, isYuv := true },
    { key := 0x34325241, code := 0x05, swizzle := .argb, uvSwizzle := false, isYuv := false } ]

def testConfig : Config where
  engBaseWord := 0
  txBaseWord := 0
  dcBaseWord := 0
  refclkSel := 3
  divsetHi := 0x44332211
  divsetLo := 0x88776655
  postTab := #v[row 0, row 1, row 2, row 3, row 4, row 5]
  fmtMap := formats
  y2r601 := tableA
  y2r709 := tableB
  y2r2020 := tableC
  r2r := #v[0, 0, 0, 0, 0, 0, 0, 0, 0]

theorem test_config_is_valid : configValid testConfig = true := by decide +kernel

/-- The reset state under the test configuration. -/
def idle : State := { State.reset with cfg := testConfig }

/-- A command under way: its word, the latches, BUSY, STEP. -/
def running (w : Word) (step : Byte) (s : State) : State :=
  { s.accept w with status := { s.status.accepted with busy := true }, seqStep := step }

/-- The outcome is a next state with a property. -/
def gives (o : Host.Outcome State Fault Refusal) (p : State → Bool) : Bool :=
  match o with
  | .next t => p t
  | .fault _ => false
  | .refused _ => false

theorem next_of_gives {o : Host.Outcome State Fault Refusal} {p : State → Bool} (h : gives o p = true) :
    ∃ t, o = .next t ∧ p t = true := by
  cases o with
  | next t => exact ⟨t, rfl, h⟩
  | fault f => cases h
  | refused r => cases h

/-! ## Well-formedness -/

theorem test_wf_refuses_panel_2 : (Instr.vtDc 2).wf = false := by decide
theorem test_wf_refuses_slot_6 : (Instr.cscLoad 6).wf = false := by decide
theorem test_wf_accepts_last_panel_and_slot : (Instr.vtDc 1).wf = true ∧ (Instr.cscLoad 5).wf = true := by decide

/-! ## Decoding: words written out from 30_encoding.md R100 and R102 -/

theorem test_decode_nop : decodeWord 0b00000000000000000000000000000000 = .instr .nop := by decide
theorem test_decode_solvepre : decodeWord 0b00000000000000000000000000000001 = .instr .pllSolvepre := by decide
theorem test_decode_solvepost : decodeWord 0b00000000000000000000000000000010 = .instr .pllSolvepost := by decide
theorem test_decode_program : decodeWord 0b00000000000000000000000000000011 = .instr .pllProgram := by decide
theorem test_decode_waitlock : decodeWord 0b00000000000000000000000000000100 = .instr .pllWaitlock := by decide
theorem test_decode_configure : decodeWord 0b00000000000000000000000000000101 = .instr .pllConfigure := by decide
theorem test_decode_vt_tx : decodeWord 0b00000000000000000000000000010000 = .instr .vtTx := by decide
theorem test_decode_vt_dc : decodeWord 0b00000000000000000000000100010001 = .instr (.vtDc 1) := by decide
theorem test_decode_mapfmt : decodeWord 0b00000000000000000000000000100000 = .instr .cscMapfmt := by decide
theorem test_decode_load : decodeWord 0b00000000000000000000010000100001 = .instr (.cscLoad 4) := by decide
theorem test_decode_clrerr : decodeWord 0b00000000000000000000000001111111 = .instr .clrerr := by decide

/-- R111: a reserved OP, a ZERO field, a SEL where none is taken (V-T13). -/
theorem test_decode_rejects :
    decodeWord 0x00000006 = .reject .unknownOpcode ∧ decodeWord 0x80000000 = .reject .zeroFieldSet ∧
      decodeWord 0x00000110 = .reject .selNotTaken := by decide

/-- V-C7: slot 6 decodes, so that its issue can raise BadOperand. -/
theorem test_decode_table_word : decodeTableWord 32 0x00000621 = some (.cscLoad 6) := by decide

/-- A step on a fetched word issues the command (R104, R105). -/
theorem test_fetch_word_runs : gives (step (idle.withFetchWord 32 0x00000005))
    (fun t => t.cmd == 0x00000005 && t.seqStep == 0x01 && t.status.busy) = true := by decide +kernel

/-- From reset itself, with the OPEN parameters unknown, a fetched command is issued. -/
theorem test_fetch_word_runs_from_reset : gives (step (State.reset.withFetchWord 32 0x00000005))
    (fun t => t.cmd == 0x00000005 && t.seqStep == 0x01 && t.status.busy) = true := by decide +kernel

/-! ## System family -/

/-- R241, after reset: STATUS = 0x02. -/
theorem test_nop : gives (exec .nop idle) (fun t => t.windowRead 0x01 == 0x02 && t.cmd == 0) = true := by decide +kernel

/-- R243: ERR = 0x10 before, 0 after; STATUS = 0x02. -/
theorem test_clrerr : gives (exec .clrerr { idle with err := { Err.reset with lockTimeoutPre := true } })
    (fun t => t.windowRead 0x02 == 0 && t.windowRead 0x01 == 0x02 && t.cmd == 0x7F) = true := by decide +kernel

/-- P4: a reserved opcode gives STATUS = 0x06 and ERR = 0x01. -/
theorem test_illegal_word : gives (issueWord 0x00000006 idle)
    (fun t => t.windowRead 0x01 == 0x06 && t.windowRead 0x02 == 0x01 && t.windowRead 0x00 == 0) = true := by decide +kernel

/-- P4: a command while BUSY adds CMD_BUSY. -/
theorem test_cmd_busy : gives (issueWord 0x00000000 (running 0x00000004 0x16 idle))
    (fun t => t.windowRead 0x02 == 0x02 && t.seqStep == 0x16 && t.status.busy) = true := by decide +kernel

/-! ## PLL family -/

/-- V-P22: 148.5 MHz. -/
theorem test_solvepre_high : gives (sequencerTurn (running 0x00000001 0x01 { idle with rate := 148500000 }))
    (fun t => t.windowRead 0x06 == 1 && t.windowRead 0x07 == 49 && t.windowRead 0x08 == 0x817FFFFE
      && t.windowRead 0x09 == 0x44332211 && t.windowRead 0x01 == 0x22) = true := by decide +kernel

/-- V-P9: the branch test is strict. -/
theorem test_solvepre_boundary : gives (sequencerTurn (running 0x00000001 0x01 { idle with rate := 30000000 }))
    (fun t => t.windowRead 0x07 == 30 && t.windowRead 0x08 == 0 && t.windowRead 0x09 == 0x88776655) = true := by
  decide +kernel

/-- V-P24: one above a threshold takes the next entry. -/
theorem test_solvepost_after_threshold : gives (sequencerTurn (running 0x00000002 0x02 { idle with rate := 241700001 }))
    (fun t => t.windowRead 0x0A == 5 && t.windowRead 0x0B == 297000000 && t.windowRead 0x0D == 0x1235
      && t.windowRead 0x0F == 6 && t.windowRead 0x01 == 0x02) = true := by decide +kernel

/-- V-P26: out of range. -/
theorem test_solvepost_out_of_range : gives (sequencerTurn (running 0x00000002 0x02 { idle with rate := 297000001 }))
    (fun t => t.windowRead 0x0A == 5 && t.windowRead 0x01 == 0x12) = true := by decide +kernel

/-- V-G1, step 0x03: PRE_PLL_CTRL 0xA4 becomes 0xA5; the next step is 0x04. -/
theorem test_program_power_down : gives (sequencerTurn (running 0x00000003 0x03 { idle with tx := [(0x00, 0xA4)] }))
    (fun t => t.memRead .tx 0x00 == 0xA5 && t.seqStep == 0x04 && t.history.length == 2) = true := by decide +kernel

/-- V-G1, step 0x15: 0x3A to POST_PLL_CTRL (byte 0x30), then retire. -/
theorem test_program_last_write :
    gives (sequencerTurn (running 0x00000003 0x15 { idle with post := { PostResult.reset with postdivEn := 5 } }))
      (fun t => t.memRead .tx 0x30 == 0x3A && t.seqStep == 0 && t.windowRead 0x01 == 0x02) = true := by decide +kernel

/-- V-W1: a payload with bit 0 clear counts. -/
theorem test_waitlock_polls_again :
    gives (sequencerTurn (running 0x00000004 0x16 { idle with lockAnswers := [0x02, 0x01] }))
      (fun t => t.windowRead 0x04 == 1 && t.seqStep == 0x16 && t.lockAnswers == [0x01]) = true := by decide +kernel

/-- V-W3: the last failed read of POST_PLL_LOCK times out: ERR = 0x20, SEQ = 0x1700, POLLCNT = 0x65. -/
theorem test_waitlock_times_out :
    gives (sequencerTurn (running 0x00000004 0x17 { idle with lockAnswers := [0x00], pollcnt := 100 }))
      (fun t => t.windowRead 0x02 == 0x20 && t.windowRead 0x03 == 0x1700 && t.windowRead 0x04 == 0x65
        && t.windowRead 0x01 == 0x06) = true := by decide +kernel

/-- R165: acceptance clears the flags and starts at step 0x01. -/
theorem test_configure_accepts :
    gives (exec .pllConfigure { idle with status := { Status.reset with oor := true, fracOvf := true, postLocked := true },
                                          pollcnt := 7 })
      (fun t => t.windowRead 0x01 == 0x01 && t.windowRead 0x03 == 0x01 && t.windowRead 0x04 == 0) = true := by
  decide +kernel

/-! ## Timing family -/

def mode1080 : Mode :=
  { hdisplay := 1920, hsyncStart := 2008, hsyncEnd := 2052, htotal := 2200, vdisplay := 1080, vsyncStart := 1084,
    vsyncEnd := 1089, vtotal := 1125, flags := 3 }

/-- V-T4's disordered mode. -/
def modeDisordered : Mode :=
  { hdisplay := 100, hsyncStart := 90, hsyncEnd := 80, htotal := 50, vdisplay := 10, vsyncStart := 5, vsyncEnd := 4,
    vtotal := 2, flags := 2 }

/-- V-T1, the composite byte. -/
theorem test_vt_tx_composite : gives (sequencerTurn (running 0x00000010 0x20 { idle with mode := mode1080 }))
    (fun t => t.memRead .tx 0x80 == 0x0D && t.seqStep == 0x21) = true := by decide +kernel

/-- R8, R184 (log 11): a vertical pair writes its high byte; for V-T4's mode VBLANK wraps
modulo 2^16, 2 - 10 = 0xFFF8. -/
theorem test_vt_tx_vertical_pair :
    gives (sequencerTurn (running 0x00000010 0x1D
        { idle with mode := modeDisordered, cfg := { testConfig with txWidth := { vblank := .pair } } }))
      (fun t => t.memRead .tx (4 * 0x1D) == 0xFF && t.seqStep == 0x2C) = true := by decide +kernel

/-- V-T5: W_HSYNC of panel 0. -/
theorem test_vt_dc_hsync : gives (sequencerTurn (running 0x00000011 0x31 { idle with mode := mode1080 }))
    (fun t => t.memRead .dc 0x008 == 0xC40207D8 && t.seqStep == 0x32) = true := by decide +kernel

/-- V-T12: panel 2. -/
theorem test_vt_dc_bad_panel : gives (exec (.vtDc 2) idle)
    (fun t => t.windowRead 0x02 == 0x04 && t.windowRead 0x01 == 0x06 && t.dc == []) = true := by decide +kernel

/-! ## Colour family -/

/-- V-M5: an unrecognised encoding takes table 601. -/
theorem test_mapfmt_default_encoding :
    gives (sequencerTurn (running 0x00000020 0x40 { idle with cscFormat := 0x32315659, cscEncoding := 3 }))
      (fun t => t.windowRead 0x22 == 0x880F && t.windowRead 0x01 == 0x02) = true := by decide +kernel

/-- V-M8: an unknown format. -/
theorem test_mapfmt_unknown :
    gives (sequencerTurn (running 0x00000020 0x40 { idle with cscFormat := 0x12345678 }))
      (fun t => t.windowRead 0x22 == 0 && t.windowRead 0x02 == 0x08 && t.windowRead 0x01 == 0x06
        && t.windowRead 0x03 == 0x4000) = true := by decide +kernel

/-- V-C2: register 3 of overlay-1 from table TB. -/
theorem test_load_pair :
    gives (sequencerTurn (running 0x00000321 0x44
        { idle with cscResult := { CscResult.reset with isYuv := true, tableSel := 1, valid := true } }))
      (fun t => t.memRead .dc 0x234 == 0xA9885678 && t.seqStep == 0x45) = true := by decide +kernel

/-- V-C4: an RGB format ends at step 0x40. -/
theorem test_load_rgb :
    gives (sequencerTurn (running 0x00000121 0x40 { idle with cscFormat := 0x34325241, cscEncoding := 1 }))
      (fun t => t.windowRead 0x22 == 0xB005 && t.windowRead 0x01 == 0x02 && t.dc == []) = true := by decide +kernel

/-! ## Script pseudo-commands -/

/-- P1's encoding: (0x14, 0x08D9EE20), (0x00, 0x00000005), then a wait. -/
theorem test_script_pllset :
    (scriptPllSet 148500000).map scriptEncoding = [some (0x14, 0x08D9EE20), some (0x00, 0x00000005), none] := by decide

/-- P3's encoding of CSCSET 2. -/
theorem test_script_cscset :
    (scriptCscSet 2 0x3132564E 1).map scriptEncoding =
      [some (0x80, 0x3132564E), some (0x84, 0x00000001), some (0x00, 0x00000221), none] := by decide

/-! ## The reset state -/

theorem test_reset_memory_canonical : spaceWf State.reset.tx = true ∧ spaceWf State.reset.dc = true := by decide

/-! ## Witnesses: states and operands that meet the hypotheses of each obligation together. A hypothesis that only names
a value (`x = e`, with `x` bound by the statement) is met by taking `x` to be `e`, and is not repeated here. -/

/-- The host is about to perform `i`. -/
def before (i : Input) (s : State) : State := { s with inputs := [i], turns := [.outside] }

theorem aboutTo_before (i : Input) (s : State) : (before i s).aboutTo i := ⟨rfl, rfl⟩

/-- A step that gives a next state, with what the next state is like. -/
theorem next_holds {o : Host.Outcome State Fault Refusal} (p : State → Bool) (h : gives o p = true) :
    ∃ t, o = .next t ∧ p t = true := next_of_gives h

theorem consistent_idle : Consistent idle where
  cfgValid := test_config_is_valid
  txWf := rfl
  dcWf := rfl
  busyNotDone := by decide
  failDone := by decide
  idleStep := by decide
  busyStep := by decide
  accepted := ⟨.nop, rfl, rfl, rfl, rfl⟩
  pollBound := by decide
  polling := by decide
  resultInvalid := by decide
  resultTable := by decide
  coefYuv := by decide
  postSel := by decide
  prediv := by decide
  fbdiv := by decide
  fracDiv := by decide
  rgbBanks := rfl

/-- A command of the test configuration under way at one of its steps, no coefficient step. -/
theorem consistent_running {i : Instr} {step : Byte} (hi : i.wf = true) (hm : step ∈ stepList testConfig i.opcode)
    (hn : step ∉ coefSteps) : Consistent (running (encode i) step idle) :=
  consistent_idle.start (st := idle.status.accepted) hi rfl rfl (.inr rfl) hm hn

/-! Decoding and issue. -/

theorem witness_StepIssuesDecodedCommand :
    (before (.host (.wr 0x00 0x00000421)) idle).aboutTo (.host (.wr 0x00 0x00000421)) ∧
      configValid (before (.host (.wr 0x00 0x00000421)) idle).cfg = true ∧
      decodeWord 0x00000421 = .instr (.cscLoad 4) := ⟨⟨rfl, rfl⟩, test_config_is_valid, by decide⟩

/-- One state for each clause. -/
theorem witness_StepIsSequencerTurn :
    configValid idle.cfg = true ∧ ({ idle with turns := [.sequencer] } : State).nextAgent = .sequencer ∧
      (running 0x00000005 0x01 idle).turns = [] ∧ (running 0x00000005 0x01 idle).status.busy = true ∧
      idle.status.busy = false := ⟨test_config_is_valid, rfl, rfl, rfl, rfl⟩

/-- A configuration for each clause about registers and fields: misaligned and colliding timing words, colliding banks,
colliding HDMI-block registers, and overlaps inside the byte or word and above it, at the first position that overlaps. -/
theorem witness_RefusedConfigurations_fields :
    (∃ o ∈ dcOffsets { testConfig with dcOff := { displayH := 0x002 } }, o % 4 ≠ 0) ∧
    (∀ c ∈ [{ testConfig with dcOff := { displayH := 0x008 } }, { testConfig with planeOff := #v[0, 4, 0, 4, 8, 8] }],
      ¬ (dcOffsets c).Nodup) ∧
    ¬ (txOffsets { testConfig with txOff := [(0x2D, 0x00)] }).Nodup ∧
    (∀ c ∈ [{ testConfig with postEnShift := 2 }, { testConfig with postEnShift := 7, refclkShift := 8 }],
      c.postEnShift < c.refclkShift + 4 ∧ c.refclkShift < c.postEnShift + 3) ∧
    (0x07#8 <<< 0) &&& testConfig.postPdMask ≠ 0 ∧ (0x0F#8 <<< 0) &&& testConfig.postPdMask ≠ 0 ∧
    ¬ [0, 1, 0, 3].Nodup ∧ (∃ p ∈ [0, 1, 2, 8], 8 ≤ p) ∧
    (∀ fields ∈ [[(0, 15), (14, 15)], [(0, 15), (15, 15), (29, 1), (31, 1)]],
      ¬ fields.Pairwise (fun a b : Nat × Nat => a.1 + a.2 ≤ b.1 ∨ b.1 + b.2 ≤ a.1)) ∧
    (∀ fields ∈ [[(0, 15), (18, 15)], [(0, 15), (15, 15), (30, 1), (32, 1)]],
      ∃ f ∈ (fields : List (Nat × Nat)), 32 < f.1 + f.2) := by decide +kernel

/-- A value for each clause about a parameter or a constant alone, at the edge of its range. -/
theorem witness_RefusedConfigurations_values :
    (∀ m ∈ [(0x00 : Byte), 0x03], ∀ b < 8, m ≠ 1#8 <<< b) ∧ 4 < [0, 4, 8, 12, 16, 4].dedup.length ∧
    ¬ [(0 : BitVec 2), 1, 2, 0].Nodup ∧ ¬ (25200000 : Word) < 25200000 ∧
    2 ^ 26 ≤ (3000000 - 1) * 0x155555D / ({ fracMul := 0x155555D } : Constants).fracDivisor := by decide +kernel

theorem witness_BusyEngineDiscardsCommands : (running 0x00000004 0x16 idle).status.busy = true := rfl

/-- One word for each reason, each about to be written while idle. -/
theorem witness_IllegalWordOnlyReports :
    configValid idle.cfg = true ∧ (∀ w, (before (.host (.wr 0x00 w)) idle).aboutTo (.host (.wr 0x00 w))) ∧
      (∀ w, (before (.host (.wr 0x00 w)) idle).status.busy = false) ∧ decodeWord 0x00000022 = .reject .unknownOpcode ∧
      decodeWord 0x0000017F = .reject .selNotTaken ∧ decodeWord 0x00010011 = .reject .zeroFieldSet :=
  ⟨test_config_is_valid, fun _ => ⟨rfl, rfl⟩, fun _ => rfl, by decide, by decide, by decide⟩

/-- The least and the greatest SEL out of range. -/
theorem witness_OperandOutOfRangeOnlyReports :
    configValid idle.cfg = true ∧ idle.status.busy = false ∧ 2 ≤ (2 : Byte).toNat ∧ 2 ≤ (0xFF : Byte).toNat ∧
      6 ≤ (6 : Byte).toNat ∧ 6 ≤ (0xFF : Byte).toNat := ⟨test_config_is_valid, by decide⟩

/-! System and PLL families. -/

theorem witness_NopCompletes : idle.status.busy = false ∧ (running 0x00000004 0x16 idle).status.busy = true := ⟨rfl, rfl⟩

theorem witness_ClrerrCompletes :
    ({ idle with err := { Err.reset with badFormat := true } } : State).status.busy = false ∧
      (running 0x00000004 0x16 idle).status.busy = true := ⟨rfl, rfl⟩

theorem witness_SolvePreCompletes :
    ({ idle with rate := 148500000 } : State).status.busy = false ∧ ({} : Constants) = idle.cfg.consts := ⟨rfl, rfl⟩

/-- Both branches at their edges, with the divider on and off, an overflow, and the greatest rate. -/
theorem witness_FractionRanges :
    testConfig.consts = {} ∧ (solvePre testConfig (30000000 : Word).toNat).fracEn = false ∧
      (solvePre testConfig (29999999 : Word).toNat).fracDiv.toNat = 0xFFFFEE ∧
      (solvePre testConfig (30000001 : Word).toNat).fracDiv.toNat = 16 ∧
      (solvePre testConfig (32999999 : Word).toNat).fracDiv.toNat = 0x2FFFFEC ∧
      (solvePre testConfig (0xFFFFFFFF : Word).toNat).fbdiv.toNat = 1431 := by decide +kernel

theorem witness_PostSelectionTable : testConfig.consts = {} := rfl

/-- The first entry at its threshold, the last at its threshold and out of range. -/
theorem witness_SolvePostCompletes :
    configValid idle.cfg = true ∧ ({ idle with rate := 297000001 } : State).status.busy = false ∧
    (let thr := testConfig.consts.postThr
     (∀ j : Fin 6, j < 0 → thr[j] < (25200000 : Word)) ∧ (25200000 : Word) ≤ thr[(0 : Fin 6)] ∧
     (∀ j : Fin 6, j < 5 → thr[j] < (297000000 : Word)) ∧ (297000000 : Word) ≤ thr[(5 : Fin 6)] ∧
     (∀ j : Fin 6, j < 5 → thr[j] < (297000001 : Word))) := ⟨test_config_is_valid, rfl, by decide⟩

theorem witness_ProgramCompletes : configValid idle.cfg = true ∧ idle.status.busy = false := ⟨test_config_is_valid, rfl⟩

/-- V-W1's answers, two failures and then lock, with one more failure before the other lock. -/
def answersTwice : State := { idle with lockAnswers := [0x00, 0x02, 0x01, 0x7E, 0x81] }

/-- Lock on the last read allowed. -/
def answersLate : State := { idle with lockAnswers := List.replicate 100 0 ++ [0x01, 0x01] }

theorem witness_WaitlockCompletes :
    configValid answersTwice.cfg = true ∧ answersTwice.status.busy = false ∧ 2 < answersTwice.cfg.nPollMax ∧
      1 < answersTwice.cfg.nPollMax ∧
      (∀ k < 2, (answersTwice.lockAnswerAt k).getLsbD answersTwice.cfg.consts.lockBit = false) ∧
      (answersTwice.lockAnswerAt 2).getLsbD answersTwice.cfg.consts.lockBit = true ∧
      (∀ k < 1, (answersTwice.lockAnswerAt (2 + 1 + k)).getLsbD answersTwice.cfg.consts.lockBit = false) ∧
      (answersTwice.lockAnswerAt (2 + 1 + 1)).getLsbD answersTwice.cfg.consts.lockBit = true := by decide +kernel

/-- The same at the edge of the budget; PLL.CONFIGURE has the same hypotheses. -/
theorem witness_ConfigureCompletes :
    configValid answersLate.cfg = true ∧ answersLate.status.busy = false ∧ 100 < answersLate.cfg.nPollMax ∧
      0 < answersLate.cfg.nPollMax ∧ (∀ k < 100, (answersLate.lockAnswerAt k).getLsbD answersLate.cfg.consts.lockBit = false) ∧
      (answersLate.lockAnswerAt 100).getLsbD answersLate.cfg.consts.lockBit = true ∧
      (∀ k < 0, (answersLate.lockAnswerAt (100 + 1 + k)).getLsbD answersLate.cfg.consts.lockBit = false) ∧
      (answersLate.lockAnswerAt (100 + 1 + 0)).getLsbD answersLate.cfg.consts.lockBit = true := by decide +kernel

/-- No answer reports lock. -/
def answersNever : State := { idle with lockAnswers := List.replicate 101 0x02 }

theorem witness_WaitlockPreTimeout :
    configValid answersNever.cfg = true ∧ answersNever.status.busy = false ∧
      (∃ t, exec .pllWaitlock answersNever = .next t ∧ true = true) ∧
      (∀ k < answersNever.cfg.nPollMax, (answersNever.lockAnswerAt k).getLsbD answersNever.cfg.consts.lockBit = false) :=
  ⟨test_config_is_valid, rfl, next_holds (fun _ => true) (by decide +kernel), by decide +kernel⟩

/-- The pre-PLL locks on the last read allowed, the post-PLL never. -/
def answersHalf : State := { idle with lockAnswers := List.replicate 100 0x02 ++ 0x01 :: List.replicate 101 0x00 }

theorem witness_WaitlockPostTimeout :
    configValid answersHalf.cfg = true ∧ answersHalf.status.busy = false ∧
      (∃ t, exec .pllWaitlock answersHalf = .next t ∧ true = true) ∧ 100 < answersHalf.cfg.nPollMax ∧
      (∀ k < 100, (answersHalf.lockAnswerAt k).getLsbD answersHalf.cfg.consts.lockBit = false) ∧ (answersHalf.lockAnswerAt 100).getLsbD answersHalf.cfg.consts.lockBit = true ∧
      (∀ k < answersHalf.cfg.nPollMax, (answersHalf.lockAnswerAt (100 + 1 + k)).getLsbD answersHalf.cfg.consts.lockBit = false) :=
  ⟨test_config_is_valid, rfl, next_holds (fun _ => true) (by decide +kernel), by decide +kernel, by decide +kernel,
    by decide +kernel, by decide +kernel⟩

theorem witness_ConfigureEqualsItsParts : answersTwice.status.busy = false := rfl

theorem witness_RunningCommandEnds :
    Consistent (running (encode .pllConfigure) 0x15 idle) ∧
      (running (encode .pllConfigure) 0x15 idle).status.busy = true :=
  ⟨consistent_running rfl (by decide) (by decide), rfl⟩

/-! Timing family. -/

/-- TX_W as no default has it: a vertical pair, a horizontal byte. -/
def swappedWidths : Config :=
  { testConfig with txWidth := { hblank := .byte, vblank := .pair }, hdelay := .startMinusDisplay, vdelay := .other 0 }

/-- The default TX_W and the other one. -/
theorem witness_TimingTxCompletes :
    (configValid idle.cfg = true ∧ ({ idle with mode := mode1080 } : State).status.busy = false) ∧
      configValid swappedWidths = true ∧ ({ idle with mode := mode1080, cfg := swappedWidths } : State).status.busy = false :=
  ⟨⟨test_config_is_valid, rfl⟩, by decide +kernel, rfl⟩

theorem witness_CompositeByteBits : testConfig.tctl = {} ∧ testConfig.txWidth = {} ∧ testConfig.dcLayout = {} :=
  ⟨rfl, rfl, rfl⟩

theorem witness_TimingStepsFollowTxWidth :
    testConfig.txWidth = {} ∧
      swappedWidths.txWidth.hblank = .byte ∧ swappedWidths.txWidth.vblank = .pair := ⟨rfl, rfl, rfl⟩

theorem witness_TimingDcCompletes :
    configValid idle.cfg = true ∧ ({ idle with mode := mode1080 } : State).status.busy = false ∧ (0 : Byte).toNat < 2 ∧
      (1 : Byte).toNat < 2 := ⟨test_config_is_valid, rfl, by decide, by decide⟩

theorem witness_TimingWordFields : testConfig.dcLayout = {} := rfl

/-- The 1080-line mode, and a mode at the edge of every hypothesis. -/
theorem witness_TimingBlocksAgree :
    testConfig.tctl = {} ∧ testConfig.dcLayout = {} ∧ testConfig.hdelay = .totalMinusStart ∧
      testConfig.vdelay = .totalMinusStart ∧ ∀ m ∈ [mode1080, { mode1080 with hdisplay := 2008, hsyncEnd := 32767, htotal := 32767 }],
        m.hdisplay ≤ m.hsyncStart ∧ m.hsyncStart ≤ m.hsyncEnd ∧ m.hsyncEnd ≤ m.htotal ∧ m.htotal.toNat < 32768 ∧
        m.vdisplay ≤ m.vsyncStart ∧ m.vsyncStart ≤ m.vsyncEnd ∧ m.vsyncEnd ≤ m.vtotal ∧ m.vtotal.toNat < 32768 := by
  decide +kernel

/-! Colour family. -/

/-- Every row of FMT_MAP, so a YUV format and one that is not. -/
theorem witness_MapFormatCompletes :
    ∀ row ∈ formats, ({ idle with cscFormat := row.key } : State).status.busy = false ∧
      testConfig.fmtMap.find? (fun x => decide (x.key = row.key)) = some row := by decide +kernel

theorem witness_UnknownFormatFaults :
    configValid idle.cfg = true ∧ idle.status.busy = false ∧
      idle.cfg.fmtMap.find? (fun x => decide (x.key = idle.cscFormat)) = none ∧
      (∃ t, exec .cscMapfmt idle = .next t ∧ true = true) ∧ (5 : Byte).toNat < 6 ∧
      (∃ t, exec (.cscLoad 5) idle = .next t ∧ true = true) :=
  ⟨test_config_is_valid, rfl, by decide +kernel, next_holds (fun _ => true) (by decide +kernel), by decide,
    next_holds (fun _ => true) (by decide +kernel)⟩

/-- The first and the last slot of each kind. -/
theorem witness_LoadYuvCompletes :
    configValid idle.cfg = true ∧ ({ idle with cscFormat := 0x3231564E, cscEncoding := 1 } : State).status.busy = false ∧
      (∀ slot ∈ ([0, 1, 2, 5] : List Byte), slot.toNat < 6) ∧
      ∃ row, testConfig.fmtMap.find? (fun x => decide (x.key = 0x3231564E)) = some row ∧ row.isYuv = true :=
  ⟨test_config_is_valid, rfl, by decide, ⟨_, rfl, rfl⟩⟩

theorem witness_LoadRgbWritesNoCoefficient :
    configValid idle.cfg = true ∧ ({ idle with cscFormat := 0x34325241 } : State).status.busy = false ∧
      (0 : Byte).toNat < 6 ∧ (5 : Byte).toNat < 6 ∧
      ∃ row, testConfig.fmtMap.find? (fun x => decide (x.key = 0x34325241)) = some row ∧ row.isYuv = false :=
  ⟨test_config_is_valid, rfl, by decide, by decide, ⟨_, rfl, rfl⟩⟩

/-- One pair of tables for the signed range and one for the unsigned, each at an edge of it. -/
theorem witness_CoefficientPackingInjective :
    (let t : Vector Word 16 := tableA.set 0 (-32768)
     (∀ k : Fin 16, k.val < 8 ∨ 12 ≤ k.val →
        ((-32768 ≤ t[k].toInt ∧ t[k].toInt ≤ 32767) ∧ (-32768 ≤ t[k].toInt ∧ t[k].toInt ≤ 32767))) ∧
      (∀ k < 10, coefWord t k = coefWord t k)) ∧
    (let t : Vector Word 16 := tableC.set 15 65535
     (∀ k : Fin 16, k.val < 8 ∨ 12 ≤ k.val → t[k].toNat ≤ 65535 ∧ t[k].toNat ≤ 65535) ∧
      (∀ k < 10, coefWord t k = coefWord t k)) := by decide +kernel

/-! Register spaces and the whole machine. -/

theorem witness_RegisterWriteReplacesOneRegister :
    Space.tx ≠ .eng ∧ Space.dc ≠ .eng ∧ (Space.dc ≠ .tx ∨ (0 : Nat) ≠ 0) ∧ (Space.tx ≠ .tx ∨ (0 : Nat) ≠ 4) := by decide

/-- A modify step, which makes two accesses, and a step of the display controller. -/
theorem witness_EngineAccessesListedRegisters :
    (Consistent (running (encode .pllProgram) 0x03 idle) ∧
      ∃ t, step (running (encode .pllProgram) 0x03 idle) = .next t ∧ (t.history.length == 2) = true) ∧
    (Consistent (running (encode (.vtDc 1)) 0x33 idle) ∧
      ∃ t, step (running (encode (.vtDc 1)) 0x33 idle) = .next t ∧ (t.history.length == 1) = true) :=
  ⟨⟨consistent_running rfl (by decide) (by decide), next_holds _ (by decide +kernel)⟩,
    ⟨consistent_running rfl (by decide) (by decide), next_holds _ (by decide +kernel)⟩⟩

theorem witness_StepKeepsConsistency :
    Consistent (running (encode (.cscLoad 5)) 0x40 idle) ∧
      ∃ t, step (running (encode (.cscLoad 5)) 0x40 idle) = .next t ∧ (t.faultStep == 0x40) = true :=
  ⟨consistent_running rfl (by decide) (by decide), next_holds _ (by decide +kernel)⟩

/-- A state that runs, and one at a foreign write to a register the running command touches. -/
theorem witness_ConsistentStateRuns :
    Consistent idle ∧ Consistent (before (.foreignTx 0x2D 7) (running (encode .vtTx) 0x2D idle)) ∧
      commandTouches (running (encode .vtTx) 0x2D idle) .tx (4 * 0x2D) = true :=
  ⟨consistent_idle, (consistent_running rfl (by decide) (by decide)).queues _ _, by decide +kernel⟩

/-- Cleared by CLRERR and by reset. -/
theorem witness_ErrBitsAreSticky :
    ∀ i ∈ [Input.host (.wr 0x00 0x0000007F), .reset],
      (before i { idle with err := { Err.reset with cmdBusy := true } }).err.has .cmdBusy = true ∧
      ∃ t, step (before i { idle with err := { Err.reset with cmdBusy := true } }) = .next t ∧
        (!t.err.has .cmdBusy) = true := by
  intro i h
  simp only [List.mem_cons, List.not_mem_nil, or_false] at h
  rcases h with rfl | rfl
  · exact ⟨rfl, next_holds (fun t => !t.err.has .cmdBusy) (by decide +kernel)⟩
  · exact ⟨rfl, next_holds (fun t => !t.err.has .cmdBusy) (by decide +kernel)⟩

/-- Changed by a fault and by reset. -/
theorem witness_FaultStepRecordsFaultingStep :
    (∃ t, step (running 0x00000020 0x40 idle) = .next t ∧ (t.faultStep != 0) = true) ∧
    (∃ t, step (before .reset { idle with faultStep := 0x40 }) = .next t ∧ (t.faultStep != 0x40) = true) :=
  ⟨next_holds (fun t => t.faultStep != 0) (by decide +kernel),
    next_holds (fun t => t.faultStep != 0x40) (by decide +kernel)⟩

theorem witness_LockFlagsNeedLockReads :
    (∃ t, step (running 0x00000004 0x16 { idle with lockAnswers := [0x01] }) = .next t ∧ t.status.preLocked = true) ∧
    (∃ t, step (running 0x00000004 0x17 { idle with lockAnswers := [0x01] }) = .next t ∧ t.status.postLocked = true) :=
  ⟨next_holds (fun t => t.status.preLocked) (by decide +kernel),
    next_holds (fun t => t.status.postLocked) (by decide +kernel)⟩

theorem witness_RunningCommandIgnoresInputs :
    ∃ t, sequencerTurn (running 0x00000010 0x20 { idle with mode := mode1080 }) = .next t ∧
      (t.seqStep == 0x21) = true := next_holds (fun t => t.seqStep == 0x21) (by decide +kernel)

theorem witness_HostNeverTouchesForeignBlocks :
    (before (.host (.wr 0x00 0x00000005)) idle).aboutTo (.host (.wr 0x00 0x00000005)) ∧
      ∃ t, step (before (.host (.wr 0x00 0x00000005)) idle) = .next t ∧ t.status.busy = true :=
  ⟨⟨rfl, rfl⟩, next_holds (fun t => t.status.busy) (by decide +kernel)⟩

/-! The host interface. -/

/-- Idle and BUSY. -/
theorem witness_PlatformResetClearsEngine :
    configValid idle.cfg = true ∧ (before .reset idle).aboutTo .reset ∧
      (before .reset (running 0x00000003 0x09 idle)).aboutTo .reset ∧
      (before .reset (running 0x00000003 0x09 idle)).status.busy = true :=
  ⟨test_config_is_valid, ⟨rfl, rfl⟩, ⟨rfl, rfl⟩, rfl⟩

theorem witness_ResetDuringCommandKeepsForeignRegisters :
    configValid idle.cfg = true ∧ (before .reset (running 0x00000003 0x09 idle)).aboutTo .reset ∧
      (before .reset (running 0x00000003 0x09 idle)).status.busy = true ∧
      ∃ t, step (before .reset (running 0x00000003 0x09 idle)) = .next t ∧ (t.seqStep == 0) = true :=
  ⟨test_config_is_valid, ⟨rfl, rfl⟩, rfl, next_holds (fun t => t.seqStep == 0) (by decide +kernel)⟩

theorem witness_HostReadHasNoSideEffect :
    configValid idle.cfg = true ∧ (before (.host (.rd 0x22)) idle).aboutTo (.host (.rd 0x22)) :=
  ⟨test_config_is_valid, ⟨rfl, rfl⟩⟩

/-- The edges of every range of the two clauses; no index is in both. -/
theorem witness_ReservedAndReadOnlyIndices :
    (∀ index ∈ [0x19, 0x1F, 0x23, 0x3FF], 0x19 ≤ index ∧ index ≤ 0x1F ∨ 0x23 ≤ index) ∧
    (∀ index ∈ [1, 4, 6, 0xF, 0x22], 1 ≤ index ∧ index ≤ 4 ∨ 6 ≤ index ∧ index ≤ 0xF ∨ index = 0x22) := by decide

theorem witness_InputRegistersKeepUsedBits :
    ∀ index ∈ [5, 0x10, 0x17, 0x18, 0x20, 0x21],
      index = 5 ∨ (0x10 ≤ index ∧ index ≤ 0x18) ∨ index = 0x20 ∨ index = 0x21 := by decide

/-- A write to CMD and one to RATE, while idle and while BUSY. -/
theorem witness_StepPerformsHostWrite :
    configValid idle.cfg = true ∧
      ∀ index ∈ [0x00, 0x05], (before (.host (.wr index 0x06)) idle).aboutTo (.host (.wr index 0x06)) ∧
        (before (.host (.wr index 0x06)) (running 0x00000004 0x16 idle)).aboutTo (.host (.wr index 0x06)) :=
  ⟨test_config_is_valid, fun _ _ => ⟨⟨rfl, rfl⟩, ⟨rfl, rfl⟩⟩⟩

/-- WAIT while idle and while BUSY. -/
theorem witness_WaitPollsStatus :
    configValid idle.cfg = true ∧ (before (.host .wait) idle).aboutTo (.host .wait) ∧
      (before (.host .wait) (running 0x00000004 0x16 idle)).aboutTo (.host .wait) :=
  ⟨test_config_is_valid, ⟨rfl, rfl⟩, ⟨rfl, rfl⟩⟩

/-- The count at the edge of its range. -/
theorem witness_WindowWordLayouts : ({ idle with pollcnt := 65535 } : State).pollcnt < 65536 := by decide

/-- A register touched by each command that touches any, with a write to it about to come while the command runs. -/
theorem witness_ForeignWritesKeepExclusiveWindow_refused :
    configValid idle.cfg = true ∧
    (∀ w n, (before (.foreignTx n 7) (running w 0x03 idle)).aboutTo (.foreignTx n 7) ∧
      (running w 0x03 idle).status.busy = true) ∧
    (∀ x ∈ ([(0x00000003, 0x10), (0x00000004, 0x11), (0x00000005, 0x12), (0x00000010, 0x22)] : List (Word × Nat)),
      commandTouches (running x.1 0x03 idle) .tx (4 * x.2) = true) ∧
    (∀ w n, (before (.foreignDc n 7) (running w 0x41 { idle with cscFormat := 0x3231564E })).aboutTo (.foreignDc n 7) ∧
      (running w 0x41 { idle with cscFormat := 0x3231564E }).status.busy = true) ∧
    (∀ x ∈ ([(0x00000011, 0), (0x00000021, 0x40)] : List (Word × Nat)),
      commandTouches (running x.1 0x41 { idle with cscFormat := 0x3231564E }) .dc (4 * x.2) = true) :=
  ⟨test_config_is_valid, fun _ _ => ⟨⟨rfl, rfl⟩, rfl⟩, by decide +kernel, fun _ _ => ⟨⟨rfl, rfl⟩, rfl⟩, by decide +kernel⟩

/-- A lock register while idle, a register of no command, and the other panel's word while VT.DC runs. -/
theorem witness_ForeignWritesKeepExclusiveWindow_made :
    ((before (.foreignTx 0x11 7) idle).aboutTo (.foreignTx 0x11 7) ∧ idle.status.busy = false) ∧
    ((before (.foreignTx 0x13 7) (running 0x00000005 0x03 idle)).aboutTo (.foreignTx 0x13 7) ∧
      commandTouches (running 0x00000005 0x03 idle) .tx (4 * 0x13) = false) ∧
    ((before (.foreignDc 1 7) (running 0x00000011 0x31 idle)).aboutTo (.foreignDc 1 7) ∧
      commandTouches (running 0x00000011 0x31 idle) .dc (4 * 1) = false) :=
  ⟨⟨⟨rfl, rfl⟩, rfl⟩, ⟨⟨rfl, rfl⟩, by decide +kernel⟩, ⟨⟨rfl, rfl⟩, by decide +kernel⟩⟩

theorem witness_MachineHasDocumentConstants : ∃ t, step idle = .next t ∧ (t.cfg == testConfig) = true :=
  next_holds (fun t => t.cfg == testConfig) (by decide +kernel)

end Sys2Proof.Tests
end

section
/-! No step changes the configuration (00_scope.md R11): each operation keeps it, so a micro-step, an issue, an input and a
whole step do. -/

namespace Sys2Proof.Machine

/-! The micro-steps. -/

@[simp] theorem State.stepSolvePre_cfg (s : State) : s.stepSolvePre.cfg = s.cfg := rfl

@[simp] theorem State.stepSolvePost_cfg (s : State) : s.stepSolvePost.cfg = s.cfg := rfl

@[simp] theorem State.lockReadLogged_cfg (s : State) (n : Nat) : (s.lockReadLogged n).cfg = s.cfg := by
  simp [State.lockReadLogged]

@[simp] theorem State.pollFailed_cfg (s : State) (c : Cause) : (s.pollFailed c).cfg = s.cfg := by
  unfold State.pollFailed
  simp only
  split <;> simp

@[simp] theorem State.stepPollPre_cfg (s : State) : s.stepPollPre.cfg = s.cfg := by
  unfold State.stepPollPre
  simp only
  split <;> simp

@[simp] theorem State.stepPollPost_cfg (s : State) : s.stepPollPost.cfg = s.cfg := by
  unfold State.stepPollPost
  simp only
  split <;> simp

@[simp] theorem State.stepMapFmt_cfg (s : State) : s.stepMapFmt.cfg = s.cfg := by
  unfold State.stepMapFmt
  split
  · simp
  · simp only
    split_ifs <;> simp

theorem sequencerStep_cfg {s t : State} (h : sequencerStep s = .next t) : t.cfg = s.cfg := by
  obtain ⟨-, ⟨-, rfl⟩ | ⟨-, rfl⟩ | ⟨-, rfl⟩ | ⟨-, rfl⟩ | ⟨-, rfl⟩ | ⟨-, a, -, rfl⟩⟩ := sequencerStep_cases h <;> simp

theorem sequencerTurn_cfg {s t : State} (h : sequencerTurn s = .next t) : t.cfg = s.cfg := by
  obtain ⟨-, rfl⟩ | ⟨-, hstep⟩ := sequencerTurn_cases h
  · rfl
  · exact sequencerStep_cfg hstep

/-! The inputs from outside. -/

/-- Issue raises CmdBusy or ends in the state the command's acceptance gives. -/
theorem State.issue_cases {s accepted t : State} (h : s.issue accepted = .next t) :
    (s.status.busy = true ∧ t = s.raise .cmdBusy) ∨ (s.status.busy = false ∧ t = accepted) := by
  unfold State.issue at h
  split at h <;> rename_i hb <;> cases h
  · exact .inl ⟨hb, rfl⟩
  · exact .inr ⟨by simpa using hb, rfl⟩

theorem State.issue_cfg {s accepted t : State} (h : s.issue accepted = .next t) (ha : accepted.cfg = s.cfg) :
    t.cfg = s.cfg := by
  obtain ⟨-, rfl⟩ | ⟨-, rfl⟩ := State.issue_cases h
  · simp
  · exact ha

/-- Acceptance of any command, or the refusal of its operand, keeps the configuration. -/
theorem exec_cfg {i : Instr} {s t : State} (h : exec i s = .next t) : t.cfg = s.cfg := by
  cases i with
  | vtDc panel => exact State.issue_cfg h (by split <;> simp)
  | cscLoad slot => exact State.issue_cfg h (by split <;> simp)
  | nop | pllSolvepre | pllSolvepost | pllProgram | pllWaitlock | pllConfigure | vtTx | cscMapfmt | clrerr =>
    exact State.issue_cfg h rfl

theorem issueWord_cfg {w : Word} {s t : State} (h : issueWord w s = .next t) : t.cfg = s.cfg := by
  unfold issueWord at h
  split at h
  · cases h; simp
  · split at h
    · cases h; simp
    · exact exec_cfg h

@[simp] theorem State.writeRegister_cfg (s : State) (v : Word) (r : EngReg) : (s.writeRegister v r).cfg = s.cfg := by
  cases r <;> rfl

theorem windowWrite_cfg {index : Nat} {v : Word} {s t : State} (h : windowWrite index v s = .next t) :
    t.cfg = s.cfg := by
  unfold windowWrite at h
  split at h
  · exact issueWord_cfg h
  · cases h; simp
  · cases h; rfl

theorem foreignWrite_cfg {space : Space} {off : Nat} {v : Word} {s t : State}
    (h : foreignWrite space off v s = .next t) : t.cfg = s.cfg := by
  obtain e | e | ⟨e, -⟩ := foreignWrite_cases space off v s <;> rw [e] at h <;> cases h
  · simp
  · rfl

@[simp] theorem State.platformReset_cfg (s : State) : s.platformReset.cfg = s.cfg := rfl

@[simp] theorem State.inputTaken_cfg (s : State) : s.inputTaken.cfg = s.cfg := rfl

/-- `again` is the state a WAIT that is not over goes on from. -/
theorem performInput_cfg {i : Input} {again s t : State} (ha : again.cfg = s.cfg)
    (h : performInput i again s = .next t) : t.cfg = s.cfg := by
  match i with
  | .host (.wr index v) => exact windowWrite_cfg h
  | .host (.rd index) => cases h; simp
  | .host .wait =>
    cases h
    rw [State.hostRead_cfg]
    split
    · exact ha
    · rfl
  | .reset => cases h; simp
  | .foreignTx index v => exact foreignWrite_cfg (space := .tx) h
  | .foreignDc index v => exact foreignWrite_cfg (space := .dc) h

/-! A whole step. -/

/-- 00_scope.md R11: the configuration is fixed for the whole run. -/
theorem step_cfg {s t : State} (h : step s = .next t) : t.cfg = s.cfg := by
  obtain ⟨-, ⟨-, hturn⟩ | ⟨-, -, rfl⟩ | ⟨i, -, hinput⟩⟩ := step_cases h
  · simpa using sequencerTurn_cfg hturn
  · simp
  · simpa using performInput_cfg (by simp) hinput

/-- Settles O53: reset installs `Config.machine`, whose constants and poll budget are the defaults of R7 and R8, and
`step_cfg` carries the configuration through every step. -/
theorem machineHasDocumentConstants : Obligations.MachineHasDocumentConstants :=
  ⟨rfl, rfl, fun _ _ => step_cfg⟩

end Sys2Proof.Machine
end

section
/-! The host's accesses to the engine window (10_state.md R21 to R36): what an index names, what a write to a register
does, the words read, and the steps that perform a read or a write. -/

namespace Sys2Proof.Machine

/-! Accesses by register. -/

theorem State.windowRead_of_register (s : State) {index : Nat} {r : EngReg} (h : engRegister index = some r) :
    s.windowRead index = s.readRegister r := by simp [State.windowRead, h]

theorem State.windowRead_of_reserved (s : State) {index : Nat} (h : engRegister index = none) :
    s.windowRead index = 0 := by simp [State.windowRead, h]

theorem windowWrite_of_register {index : Nat} {r : EngReg} (h : engRegister index = some r) (hr : r ≠ .cmd) (v : Word)
    (s : State) : windowWrite index v s = .next (s.writeRegister v r) := by
  unfold windowWrite
  rw [h]
  cases r with
  | cmd => exact absurd rfl hr
  | _ => rfl

theorem windowWrite_of_reserved {index : Nat} (h : engRegister index = none) (v : Word) (s : State) :
    windowWrite index v s = .next s := by
  unfold windowWrite
  rw [h]

/-- The registers the host writes beside CMD (10_state.md R27, R30 to R32). -/
def EngReg.isInput : EngReg → Bool
  | .rate | .modeHdisplay | .modeHsyncStart | .modeHsyncEnd | .modeHtotal | .modeVdisplay | .modeVsyncStart
  | .modeVsyncEnd | .modeVtotal | .modeFlags | .cscFormat | .cscEncoding => true
  | _ => false

theorem engRegister_of_reserved_index {index : Nat} (h : 0x19 ≤ index ∧ index ≤ 0x1F ∨ 0x23 ≤ index) :
    engRegister index = none := by
  cases hr : engRegister index with
  | none => rfl
  | some r =>
    rw [index_of_engRegister hr] at h
    cases r <;> simp [EngReg.index] at h

theorem engRegister_of_readOnly_index {index : Nat}
    (h : 1 ≤ index ∧ index ≤ 4 ∨ 6 ≤ index ∧ index ≤ 0xF ∨ index = 0x22) :
    ∃ r, engRegister index = some r ∧ r ≠ .cmd ∧ r.isInput = false := by
  rcases h with ⟨hlo, hhi⟩ | ⟨hlo, hhi⟩ | rfl
  · interval_cases index <;> exact ⟨_, rfl, by decide, rfl⟩
  · interval_cases index <;> exact ⟨_, rfl, by decide, rfl⟩
  · exact ⟨_, rfl, by decide, rfl⟩

theorem engRegister_of_input_index {index : Nat}
    (h : index = 5 ∨ (0x10 ≤ index ∧ index ≤ 0x18) ∨ index = 0x20 ∨ index = 0x21) :
    ∃ r, engRegister index = some r ∧ r.isInput = true := by
  rcases h with rfl | ⟨hlo, hhi⟩ | rfl | rfl
  · exact ⟨_, rfl, rfl⟩
  · interval_cases index <;> exact ⟨_, rfl, rfl⟩
  · exact ⟨_, rfl, rfl⟩
  · exact ⟨_, rfl, rfl⟩

theorem EngReg.ne_cmd_of_isInput {r : EngReg} (h : r.isInput = true) : r ≠ .cmd := by
  rintro rfl
  cases h

/-! Writes by register. -/

theorem State.writeRegister_of_not_input {r : EngReg} (h : r.isInput = false) (s : State) (v : Word) :
    s.writeRegister v r = s := by
  cases r with
  | rate | modeHdisplay | modeHsyncStart | modeHsyncEnd | modeHtotal | modeVdisplay | modeVsyncStart | modeVsyncEnd
  | modeVtotal | modeFlags | cscFormat | cscEncoding => cases h
  | _ => rfl

/-- A write changes the input registers only. -/
theorem State.writeRegister_frame (s : State) (v : Word) (r : EngReg) :
    s.writeRegister v r = { s with
      rate := (s.writeRegister v r).rate, mode := (s.writeRegister v r).mode
      cscFormat := (s.writeRegister v r).cscFormat, cscEncoding := (s.writeRegister v r).cscEncoding } := by
  cases r <;> rfl

/-- A value cut to `n` bits and read back as a word. -/
theorem setWidth_setWidth_eq_and (n : Nat) (v : Word) :
    (v.setWidth n).setWidth 32 = v &&& (BitVec.allOnes n).setWidth 32 := by
  apply BitVec.eq_of_getLsbD_eq
  intro k hk
  simp [hk, Bool.and_comm]

/-- An input register holds the bits it uses of the last word written. -/
theorem State.readRegister_writeRegister_same {r : EngReg} (h : r.isInput = true) (s : State) (v : Word) :
    (s.writeRegister v r).readRegister r =
      (if r.index = 0x18 then v &&& 0x7 else if 0x10 ≤ r.index ∧ r.index < 0x18 then v &&& 0xFFFF else v) := by
  cases r with
  | rate | cscFormat | cscEncoding => rfl
  | modeFlags => exact setWidth_setWidth_eq_and 3 v
  | modeHdisplay | modeHsyncStart | modeHsyncEnd | modeHtotal | modeVdisplay | modeVsyncStart | modeVsyncEnd
  | modeVtotal => exact setWidth_setWidth_eq_and 16 v
  | _ => cases h

theorem State.readRegister_writeRegister_other {r r' : EngReg} (h : r' ≠ r) (s : State) (v : Word) :
    (s.writeRegister v r).readRegister r' = s.readRegister r' := by
  cases r <;> cases r' <;> first | rfl | exact absurd rfl h

theorem State.windowRead_writeRegister_other {index other : Nat} {r : EngReg} (hr : engRegister index = some r)
    (h : other ≠ index) (s : State) (v : Word) : (s.writeRegister v r).windowRead other = s.windowRead other := by
  cases ho : engRegister other with
  | none => simp [State.windowRead_of_reserved _ ho]
  | some r' =>
    have hne : r' ≠ r := by
      rintro rfl
      exact h ((index_of_engRegister ho).trans (index_of_engRegister hr).symm)
    simp [State.windowRead_of_register _ ho, State.readRegister_writeRegister_other hne]

/-- Settles O48: a reserved index names no register, and the other indices name registers that are no inputs. -/
theorem reservedAndReadOnlyIndices : Obligations.ReservedAndReadOnlyIndices := by
  intro s index v
  constructor
  · intro h
    have hnone := engRegister_of_reserved_index h
    exact ⟨s.windowRead_of_reserved hnone, windowWrite_of_reserved hnone v s⟩
  · intro h
    obtain ⟨r, hr, hcmd, hin⟩ := engRegister_of_readOnly_index h
    rw [windowWrite_of_register hr hcmd, State.writeRegister_of_not_input hin]

/-- Settles O49: the index names an input register, which keeps the bits it uses; an index read elsewhere names another
register or none. -/
theorem inputRegistersKeepUsedBits : Obligations.InputRegistersKeepUsedBits := by
  intro s index v h
  obtain ⟨r, hr, hin⟩ := engRegister_of_input_index h
  refine ⟨s.writeRegister v r, windowWrite_of_register hr (EngReg.ne_cmd_of_isInput hin) v s, ?_,
    fun other hne => State.windowRead_writeRegister_other hr hne s v, ?_⟩
  · rw [State.windowRead_of_register _ hr, index_of_engRegister hr]
    exact State.readRegister_writeRegister_same hin s v
  · rw [State.writeRegister_frame]
    exact ⟨rfl, rfl, rfl, rfl⟩

/-! The reset state. -/

theorem reset_readRegister (r : EngReg) : State.reset.readRegister r = 0 := by cases r <;> rfl

/-- Settles O44: every register of the table reads 0, and so does every reserved index. -/
theorem resetClearsEngine : Obligations.ResetClearsEngine := by
  refine ⟨fun index => ?_, rfl⟩
  cases h : engRegister index with
  | none => exact State.windowRead_of_reserved _ h
  | some r => rw [State.windowRead_of_register _ h, reset_readRegister]

/-! The words read. -/

/-- Two fields side by side are their disjunction, the upper one shifted. -/
theorem setWidth_append_eq_or {m n : Nat} (w : Nat) (hi : BitVec m) (lo : BitVec n) :
    (hi ++ lo).setWidth w = lo.setWidth w ||| (hi.setWidth w <<< n) := by
  apply BitVec.eq_of_getLsbD_eq
  intro k hk
  simp only [BitVec.getLsbD_setWidth, BitVec.getLsbD_append, BitVec.getLsbD_or, BitVec.getLsbD_shiftLeft]
  by_cases hn : k < n
  · simp [hn]
  · have hkn : k - n < w := by omega
    simp [hn, hk, hkn, BitVec.getLsbD_of_ge lo k (by omega)]

theorem bit_eq_setWidth (b : Bool) : bit 32 b = (BitVec.ofBool b).setWidth 32 := by cases b <;> rfl

/-- 10_state.md R23. -/
theorem statusWord_eq (t : Status) :
    statusWord t = 0#24 ++ BitVec.ofBool t.postLocked ++ BitVec.ofBool t.preLocked ++ BitVec.ofBool t.fracOvf
      ++ BitVec.ofBool t.oor ++ 0#1 ++ BitVec.ofBool t.fail ++ BitVec.ofBool t.done ++ BitVec.ofBool t.busy := by
  refine .trans ?_ (BitVec.setWidth_eq _)
  simp only [setWidth_append_eq_or, BitVec.shiftLeft_or_distrib, ← BitVec.shiftLeft_add]
  simp [statusWord, bit_eq_setWidth, BitVec.or_assoc]

/-- 10_state.md R24. -/
theorem errWord_eq (e : Err) :
    errWord e = 0#26 ++ BitVec.ofBool e.lockTimeoutPost ++ BitVec.ofBool e.lockTimeoutPre ++ BitVec.ofBool e.badFormat
      ++ BitVec.ofBool e.badOperand ++ BitVec.ofBool e.cmdBusy ++ BitVec.ofBool e.illegalCmd := by
  refine .trans ?_ (BitVec.setWidth_eq _)
  simp only [setWidth_append_eq_or, BitVec.shiftLeft_or_distrib, ← BitVec.shiftLeft_add]
  simp [errWord, bit_eq_setWidth, BitVec.or_assoc]

/-- 10_state.md R25. -/
theorem seqWord_eq (seqStep faultStep : Byte) : seqWord seqStep faultStep = 0#16 ++ faultStep ++ seqStep := by
  refine .trans ?_ (BitVec.setWidth_eq _)
  simp only [setWidth_append_eq_or, BitVec.shiftLeft_or_distrib, ← BitVec.shiftLeft_add]
  simp [seqWord]

/-- 10_state.md R28. -/
theorem fracWord_eq (p : PreResult) : fracWord p = BitVec.ofBool p.fracEn ++ 0#5 ++ p.fracDiv := by
  refine .trans ?_ (BitVec.setWidth_eq _)
  simp only [setWidth_append_eq_or, BitVec.shiftLeft_or_distrib, ← BitVec.shiftLeft_add]
  simp [fracWord, bit_eq_setWidth, BitVec.or_comm]

/-- 10_state.md R33. -/
theorem cscResultWord_eq (r : CscResult) :
    cscResultWord r = 0#16 ++ BitVec.ofBool r.valid ++ 0#1 ++ r.tableSel ++ BitVec.ofBool r.isYuv
      ++ BitVec.ofBool r.uvSwizzle ++ r.swizzle ++ r.fmtCode := by
  refine .trans ?_ (BitVec.setWidth_eq _)
  simp only [setWidth_append_eq_or, BitVec.shiftLeft_or_distrib, ← BitVec.shiftLeft_add]
  simp [cscResultWord, bit_eq_setWidth, BitVec.or_assoc]

/-- 10_state.md R26: a count that fits the 16 bits of POLLCNT is what the host reads. -/
theorem toNat_pollcntWord {n : Nat} (h : n < 65536) : ((pollcntWord n).setWidth 32).toNat = n := by
  have hfits : n < 2 ^ 16 := h
  rw [pollcntWord, if_pos hfits]
  simp
  omega

/-- Settles O50: the words with several fields by their layout lemmas, the narrow registers by zero extension. -/
theorem windowWordLayouts : Obligations.WindowWordLayouts := by
  intro s
  have narrow3 : ∀ v : BitVec 3, v.setWidth 32 = 0#29 ++ v := fun _ => BitVec.setWidth_eq_append (by decide)
  have narrow8 : ∀ v : Byte, v.setWidth 32 = 0#24 ++ v := fun _ => BitVec.setWidth_eq_append (by decide)
  have narrow16 : ∀ v : Half, v.setWidth 32 = 0#16 ++ v := fun _ => BitVec.setWidth_eq_append (by decide)
  exact ⟨rfl, statusWord_eq _, errWord_eq _, seqWord_eq _ _, toNat_pollcntWord, rfl, narrow8 _, narrow16 _, fracWord_eq _,
    rfl, narrow3 _, rfl, narrow8 _, narrow16 _, narrow8 _, narrow8 _, narrow16 _, narrow16 _, narrow16 _, narrow16 _,
    narrow16 _, narrow16 _, narrow16 _, narrow16 _, narrow3 _, rfl, rfl, cscResultWord_eq _⟩

/-! The steps of the host. -/

@[simp] theorem State.inputTaken_windowRead (s : State) (index : Nat) :
    s.inputTaken.windowRead index = s.windowRead index := rfl

/-- Settles O47: the step is the host's read, which appends to the record the word of the register as it stands. -/
theorem hostReadHasNoSideEffect : Obligations.HostReadHasNoSideEffect := by
  intro s index hv h
  have hread : step s = .next (s.inputTaken.hostRead index) := step_outside hv h
  rw [hread, State.hostRead, State.inputTaken_windowRead]
  rfl

/-- Settles O54: the outside's turn on a write is that write, and index 0 is CMD. -/
theorem stepPerformsHostWrite : Obligations.StepPerformsHostWrite := by
  intro s index v hv h
  have hwrite : step s = windowWrite index v s.inputTaken := step_outside hv h
  exact ⟨hwrite, fun hcmd => by subst hcmd; exact hwrite⟩

end Sys2Proof.Machine
end

section
/-! Which configurations a step refuses: each check of Machine/ConfigCheck.lean as the conjunction of its constraints. -/

namespace Sys2Proof.Machine

theorem pollBoundOk_iff (c : Config) : pollBoundOk c = true ↔ c.nPollMax ≠ 0 := by
  simp [pollBoundOk, Nat.one_le_iff_ne_zero]

theorem constantsOk_iff (k : Constants) : constantsOk k = true ↔
    k.nPanel = 2 ∧ k.nLayer = 6 ∧ k.nCursor = 2 ∧ k.nPost = 6 ∧ k.nCoefEntry = 16 ∧ k.nCoefReg = 10 ∧
    (k.postThr[0] < k.postThr[1] ∧ k.postThr[1] < k.postThr[2] ∧ k.postThr[2] < k.postThr[3] ∧
      k.postThr[3] < k.postThr[4] ∧ k.postThr[4] < k.postThr[5]) ∧
    k.quantumHi ≠ 0 ∧ k.quantumLo ≠ 0 ∧ k.fracDivisor ≠ 0 ∧ k.lockBit < 8 ∧
    (k.quantumHi - 1) * k.fracMul / k.fracDivisor < 2 ^ 26 ∧ (k.quantumLo - 1) * k.fracMul / k.fracDivisor < 2 ^ 26 := by
  simp only [constantsOk, Bool.and_eq_true, beq_iff_eq, decide_eq_true_eq, Nat.pos_iff_ne_zero, and_assoc]

theorem apart_iff (lo₁ width₁ lo₂ width₂ : Nat) :
    apart lo₁ width₁ lo₂ width₂ = true ↔ lo₁ + width₁ ≤ lo₂ ∨ lo₂ + width₂ ≤ lo₁ := by
  simp [apart]

theorem pllFieldsOk_iff (c : Config) : pllFieldsOk c = true ↔
    (∃ b < 8, c.prePdMask = 1#8 <<< b) ∧ (∃ b < 8, c.postPdMask = 1#8 <<< b) ∧
    (0x07#8 <<< c.postEnShift) &&& c.postPdMask = 0 ∧ (0x0F#8 <<< c.refclkShift) &&& c.postPdMask = 0 ∧
    ¬ (c.postEnShift < c.refclkShift + 4 ∧ c.refclkShift < c.postEnShift + 3) := by
  have hfields : (c.postEnShift + 3 ≤ c.refclkShift ∨ c.refclkShift + 4 ≤ c.postEnShift) ↔
      ¬ (c.postEnShift < c.refclkShift + 4 ∧ c.refclkShift < c.postEnShift + 3) := by omega
  simp only [pllFieldsOk, Bool.and_eq_true, oneHot_iff, decide_eq_true_eq, apart_iff, hfields, and_assoc]

theorem txMapOk_iff (c : Config) : txMapOk c = true ↔
    (txOffsets c).Nodup ∧ [c.tctl.enable, c.tctl.interlace, c.tctl.hsync, c.tctl.vsync].Nodup ∧
    ∀ p ∈ [c.tctl.enable, c.tctl.interlace, c.tctl.hsync, c.tctl.vsync], p < 8 := by
  simp only [txMapOk, Bool.and_eq_true, allDistinct_iff_nodup, List.all_eq_true, decide_eq_true_eq, and_assoc]

/-- The fields of the two kinds of timing word, as position and width (41_timing.md R193). -/
def timingWordFields (l : DcLayout) : List (List (Nat × Nat)) :=
  [[(l.active, 15), (l.total, 15)], [(l.syncStart, 15), (l.syncEnd, 15), (l.plus, 1), (l.polarity, 1)]]

theorem dcLayoutOk_iff (l : DcLayout) : dcLayoutOk l = true ↔
    (∀ fields ∈ timingWordFields l, fields.Pairwise (fun a b => a.1 + a.2 ≤ b.1 ∨ b.1 + b.2 ≤ a.1)) ∧
    ∀ fields ∈ timingWordFields l, ∀ f ∈ fields, f.1 + f.2 ≤ 32 := by
  simp only [dcLayoutOk, timingWordFields, Bool.and_eq_true, decide_eq_true_eq, apart_iff, List.forall_mem_cons,
    List.pairwise_cons, List.Pairwise.nil, List.not_mem_nil, false_imp_iff, implies_true, and_true, Nat.lt_iff_add_one_le]
  simp only [and_assoc, and_left_comm, and_comm]

theorem dcMapOk_iff (c : Config) : dcMapOk c = true ↔
    (∀ o ∈ dcOffsets c, o % 4 = 0) ∧ (dcOffsets c).Nodup ∧ dcLayoutOk c.dcLayout = true ∧
    c.planeOff[0] = 0 ∧ c.planeOff[1] = 4 ∧ c.planeOff.toList.dedup.length ≤ 4 := by
  have hplane0 : planeOffset c 0 = c.planeOff[0] := rfl
  have hplane1 : planeOffset c 1 = c.planeOff[1] := rfl
  simp only [dcMapOk, Bool.and_eq_true, List.all_eq_true, beq_iff_eq, allDistinct_iff_nodup, decide_eq_true_eq,
    distinctMembers_eq_dedup, hplane0, hplane1, and_assoc]

theorem swizzlesOk_iff (c : Config) : swizzlesOk c = true ↔
    [c.swizzleCode.argb, c.swizzleCode.abgr, c.swizzleCode.rgba, c.swizzleCode.bgra].Nodup := by
  rw [swizzlesOk, allDistinct_iff_nodup]
  exact List.nodup_map_iff (f := BitVec.toNat) (l := [c.swizzleCode.argb, c.swizzleCode.abgr, c.swizzleCode.rgba,
    c.swizzleCode.bgra]) (fun _ _ => BitVec.eq_of_toNat_eq)

/-- Settles O6: the checks of `configValid`, each by the lemma that says what it demands; the disjuncts of the statement are
the negations of those demands in another order. -/
theorem refusedConfigurations : Obligations.RefusedConfigurations := by
  rintro s c k l composite words rfl rfl rfl rfl hwords
  have hw : words = timingWordFields s.cfg.dcLayout := hwords
  subst hw
  rw [step_invalidConfiguration_iff, ← Bool.not_eq_true, configValid_iff, pollBoundOk_iff, constantsOk_iff,
    pllFieldsOk_iff, txMapOk_iff, dcMapOk_iff, dcLayoutOk_iff, swizzlesOk_iff, not_iff_comm]
  simp only [not_or, not_exists, not_forall, not_and, ne_eq, not_not, not_le, not_lt, exists_prop]
  constructor
  · tauto
  · tauto

end Sys2Proof.Machine
end

section
/-! What a step can do to the flags and records the host reads back: STATUS, ERR and FAULT_STEP (10_state.md R23 to R25),
said once for a micro-step, an issue, an input and a whole step. -/

namespace Sys2Proof.Machine

/-! Flags after the operations. -/

@[simp] theorem State.advance_preLocked (s : State) : s.advance.status.preLocked = s.status.preLocked := by
  unfold State.advance; split <;> rfl

@[simp] theorem State.advance_postLocked (s : State) : s.advance.status.postLocked = s.status.postLocked := by
  unfold State.advance; split <;> rfl

@[simp] theorem State.raise_preLocked (s : State) (c : Cause) : (s.raise c).status.preLocked = s.status.preLocked := by
  cases c <;> rfl

@[simp] theorem State.raise_postLocked (s : State) (c : Cause) : (s.raise c).status.postLocked = s.status.postLocked := by
  cases c <;> rfl

theorem Err.has_set (e : Err) (c c' : Cause) : (e.set c').has c = (decide (c = c') || e.has c) := by
  cases c' <;> cases c <;> rfl

/-- Setting a bit clears none. -/
theorem Err.has_set_of_has {e : Err} {c : Cause} (c' : Cause) (h : e.has c = true) : (e.set c').has c = true := by
  simp [Err.has_set, h]

/-! Causes by who raises them (60_exceptions.md R250). -/

/-- The causes raised at issue; the others are raised by a micro-step. -/
def Cause.atIssue : Cause → Bool
  | .illegalCmd | .cmdBusy | .badOperand => true
  | .badFormat | .lockTimeoutPre | .lockTimeoutPost => false

theorem State.raise_faultStep_of_issue {c : Cause} (h : c.atIssue = true) (s : State) :
    (s.raise c).faultStep = s.faultStep := by
  cases c with
  | illegalCmd | cmdBusy | badOperand => rfl
  | badFormat | lockTimeoutPre | lockTimeoutPost => cases h

/-- 60_exceptions.md R255. -/
theorem State.raise_of_sequencer {c : Cause} (h : c.atIssue = false) (s : State) :
    (s.raise c).faultStep = s.seqStep ∧ (s.raise c).status.busy = false ∧ (s.raise c).status.done = true ∧
      (s.raise c).status.fail = true ∧ (s.raise c).seqStep = 0 := by
  cases c with
  | illegalCmd | cmdBusy | badOperand => cases h
  | badFormat | lockTimeoutPre | lockTimeoutPost => exact ⟨rfl, rfl, rfl, rfl, rfl⟩

/-! A micro-step. -/

@[simp] theorem State.lockReadLogged_status (s : State) (n : Nat) : (s.lockReadLogged n).status = s.status := by
  simp [State.lockReadLogged]

@[simp] theorem State.lockReadLogged_err (s : State) (n : Nat) : (s.lockReadLogged n).err = s.err := by
  simp [State.lockReadLogged]

@[simp] theorem State.lockReadLogged_faultStep (s : State) (n : Nat) :
    (s.lockReadLogged n).faultStep = s.faultStep := by
  simp [State.lockReadLogged]

@[simp] theorem State.lockReadLogged_seqStep (s : State) (n : Nat) : (s.lockReadLogged n).seqStep = s.seqStep := by
  simp [State.lockReadLogged]

/-- From `s` to `t` no lock flag was set. -/
def NoNewLock (s t : State) : Prop :=
  (t.status.preLocked = true → s.status.preLocked = true) ∧ (t.status.postLocked = true → s.status.postLocked = true)

/-- From `s` to `t` no fault was raised, and none acknowledged. -/
def FaultFree (s t : State) : Prop := t.err = s.err ∧ t.faultStep = s.faultStep

/-- `t` is the state after a fault that the micro-step at which `s` stands raised. -/
def RaisedByMicroStep (s t : State) : Prop :=
  ∃ (u : State) (c : Cause), t = u.raise c ∧ c.atIssue = false ∧ u.err = s.err ∧ u.seqStep = s.seqStep

theorem State.pollFailed_cases (s : State) (c : Cause) :
    s.pollFailed c = { s with pollcnt := s.pollcnt + 1 } ∨
      s.pollFailed c = ({ s with pollcnt := s.pollcnt + 1 } : State).raise c := by
  unfold State.pollFailed
  simp only
  split
  · exact .inr rfl
  · exact .inl rfl

/-- A failed poll leaves the lock flags, and raises its timeout or nothing. -/
theorem pollFailed_outcome {s u : State} {c : Cause} (hc : c.atIssue = false) (hs : u.status = s.status)
    (he : u.err = s.err) (hf : u.faultStep = s.faultStep) (hq : u.seqStep = s.seqStep) :
    NoNewLock s (u.pollFailed c) ∧ (FaultFree s (u.pollFailed c) ∨ RaisedByMicroStep s (u.pollFailed c)) := by
  rcases State.pollFailed_cases u c with e | e <;> rw [e]
  · exact ⟨by simp [NoNewLock, hs], .inl ⟨he, hf⟩⟩
  · exact ⟨by simp [NoNewLock, hs], .inr ⟨_, c, rfl, hc, he, hq⟩⟩

theorem stepMapFmt_outcome (s : State) :
    NoNewLock s s.stepMapFmt ∧ (FaultFree s s.stepMapFmt ∨ RaisedByMicroStep s s.stepMapFmt) := by
  unfold State.stepMapFmt
  split
  · exact ⟨by simp [NoNewLock], .inr ⟨_, .badFormat, rfl, rfl, rfl, rfl⟩⟩
  · simp only
    split_ifs <;> exact ⟨by simp [NoNewLock], .inl ⟨rfl, rfl⟩⟩

/-- A micro-step raises a fault of its own or none, and sets a lock flag only by a lock read that reports lock. -/
theorem sequencerStep_outcome {s t : State} (h : sequencerStep s = .next t) :
    (NoNewLock s t ∨
      (s.seqStep = 0x16 ∧ reportsLock s.cfg s.lockAnswer = true ∧
        (t.status.postLocked = true → s.status.postLocked = true)) ∨
      (s.seqStep = 0x17 ∧ reportsLock s.cfg s.lockAnswer = true ∧
        (t.status.preLocked = true → s.status.preLocked = true))) ∧
    (FaultFree s t ∨ RaisedByMicroStep s t) := by
  obtain ⟨-, ⟨-, rfl⟩ | ⟨-, rfl⟩ | ⟨hstep, rfl⟩ | ⟨hstep, rfl⟩ | ⟨-, rfl⟩ | ⟨-, a, -, rfl⟩⟩ := sequencerStep_cases h
  · exact ⟨.inl (by simp [NoNewLock, State.stepSolvePre]), .inl (by simp [FaultFree, State.stepSolvePre])⟩
  · exact ⟨.inl (by simp [NoNewLock, State.stepSolvePost]), .inl (by simp [FaultFree, State.stepSolvePost])⟩
  · unfold State.stepPollPre
    simp only
    split
    · rename_i hlock
      exact ⟨.inr (.inl ⟨hstep, hlock, by simp⟩), .inl (by simp [FaultFree])⟩
    · exact (pollFailed_outcome rfl (by simp) (by simp) (by simp) (by simp)).imp_left .inl
  · unfold State.stepPollPost
    simp only
    split
    · rename_i hlock
      exact ⟨.inr (.inr ⟨hstep, hlock, by simp⟩), .inl (by simp [FaultFree])⟩
    · exact (pollFailed_outcome rfl (by simp) (by simp) (by simp) (by simp)).imp_left .inl
  · exact (stepMapFmt_outcome s).imp_left .inl
  · exact ⟨.inl (by simp [NoNewLock]), .inl (by simp [FaultFree])⟩

/-! An issue. -/

/-- A word that decodes to a command is that command's word. -/
theorem eq_encode_of_decodeWord {w : Word} {i : Instr} (h : decodeWord w = .instr i) : w = encode i := by
  obtain ⟨hzero, hop, hsel⟩ := decodeFields_instr h
  rw [encode, hop, hsel, word_of_fields hzero]

/-- From `s` to `t` STATUS, ERR and FAULT_STEP are unchanged. -/
def SameReports (s t : State) : Prop := t.status = s.status ∧ FaultFree s t

/-- `t` is the state after a fault raised at issue in `s`. -/
def RaisedAtIssue (s t : State) : Prop := ∃ c : Cause, c.atIssue = true ∧ t = s.raise c

/-- What the acceptance of command `i` in `s` may do to the flags (30_encoding.md R105, 43_system.md R243). -/
def AcceptedFrom (i : Instr) (s t : State) : Prop :=
  t.err = (if i = .clrerr then Err.reset else s.err) ∧ t.faultStep = s.faultStep ∧ NoNewLock s t

theorem RaisedAtIssue.faultStep {s t : State} (h : RaisedAtIssue s t) : t.faultStep = s.faultStep := by
  obtain ⟨c, hc, rfl⟩ := h
  exact State.raise_faultStep_of_issue hc s

theorem RaisedAtIssue.noNewLock {s t : State} (h : RaisedAtIssue s t) : NoNewLock s t := by
  obtain ⟨c, -, rfl⟩ := h
  simp [NoNewLock]

theorem issue_outcome {i : Instr} {s accepted t : State} (h : s.issue accepted = .next t)
    (ha : RaisedAtIssue s accepted ∨ AcceptedFrom i s accepted) :
    RaisedAtIssue s t ∨ (s.status.busy = false ∧ AcceptedFrom i s t) := by
  obtain ⟨-, rfl⟩ | ⟨hb, rfl⟩ := State.issue_cases h
  · exact .inl ⟨.cmdBusy, rfl, rfl⟩
  · exact ha.imp_right (⟨hb, ·⟩)

theorem exec_outcome {i : Instr} {s t : State} (h : exec i s = .next t) :
    RaisedAtIssue s t ∨ (s.status.busy = false ∧ AcceptedFrom i s t) := by
  cases i with
  | nop | vtTx | cscMapfmt | pllSolvepre | pllSolvepost | clrerr => exact issue_outcome h (.inr ⟨rfl, rfl, id, id⟩)
  | pllProgram | pllWaitlock | pllConfigure => exact issue_outcome h (.inr ⟨rfl, rfl, nofun, nofun⟩)
  | vtDc panel | cscLoad slot =>
    refine issue_outcome h ?_
    split
    · exact .inr ⟨rfl, rfl, id, id⟩
    · exact .inl ⟨.badOperand, rfl, rfl⟩

/-! An input from outside. -/

theorem writeRegister_sameReports (s : State) (v : Word) (r : EngReg) : SameReports s (s.writeRegister v r) := by
  rw [State.writeRegister_frame]
  exact ⟨rfl, rfl, rfl⟩

theorem memWrite_sameReports (s : State) (space : Space) (off : Nat) (w : Word) :
    SameReports s (s.memWrite space off w) := by
  cases space <;> exact ⟨rfl, rfl, rfl⟩

theorem windowWrite_outcome {index : Nat} {v : Word} {s t : State} (h : windowWrite index v s = .next t) :
    SameReports s t ∨ RaisedAtIssue s t ∨
      (index = 0x00 ∧ s.status.busy = false ∧ ∃ i, decodeWord v = .instr i ∧ AcceptedFrom i s t) := by
  unfold windowWrite at h
  split at h
  · rename_i hcmd
    unfold issueWord at h
    split at h
    · cases h
      exact .inr (.inl ⟨.cmdBusy, rfl, rfl⟩)
    · split at h
      · cases h
        exact .inr (.inl ⟨.illegalCmd, rfl, rfl⟩)
      · rename_i i hi
        exact .inr ((exec_outcome h).imp_right fun ⟨hb, ha⟩ => ⟨index_of_engRegister hcmd, hb, i, hi, ha⟩)
  · cases h
    exact .inl (writeRegister_sameReports s v _)
  · cases h
    exact .inl ⟨rfl, rfl, rfl⟩

theorem foreignWrite_sameReports {space : Space} {off : Nat} {v : Word} {s t : State}
    (h : foreignWrite space off v s = .next t) : SameReports s t := by
  obtain e | e | ⟨e, -⟩ := foreignWrite_cases space off v s <;> rw [e] at h <;> cases h
  · exact memWrite_sameReports s space off v
  · exact ⟨rfl, rfl, rfl⟩

/-- `again` is the state a WAIT that is not over goes on from. -/
theorem performInput_outcome {i : Input} {again s t : State} (ha : SameReports s again)
    (h : performInput i again s = .next t) :
    SameReports s t ∨ (i = .reset ∧ t = s.platformReset) ∨ RaisedAtIssue s t ∨
      (s.status.busy = false ∧ ∃ w j, i = .host (.wr 0x00 w) ∧ decodeWord w = .instr j ∧ AcceptedFrom j s t) := by
  match i with
  | .host (.wr index v) =>
    obtain hsame | hraised | ⟨rfl, hb, j, hj, hacc⟩ := windowWrite_outcome h
    · exact .inl hsame
    · exact .inr (.inr (.inl hraised))
    · exact .inr (.inr (.inr ⟨hb, v, j, rfl, hj, hacc⟩))
  | .host (.rd index) =>
    cases h
    exact .inl ⟨rfl, rfl, rfl⟩
  | .host .wait =>
    cases h
    left
    split
    · exact ha
    · exact ⟨rfl, rfl, rfl⟩
  | .reset =>
    cases h
    exact .inr (.inl ⟨rfl, rfl⟩)
  | .foreignTx index v => exact .inl (foreignWrite_sameReports (space := .tx) h)
  | .foreignDc index v => exact .inl (foreignWrite_sameReports (space := .dc) h)

/-! A whole step. -/

/-- What a step can do to STATUS, ERR and FAULT_STEP. -/
theorem step_outcome {s t : State} (h : step s = .next t) :
    (s.nextAgent = .sequencer ∧ s.status.busy = true ∧ sequencerStep s.turnTaken = .next t) ∨
      SameReports s t ∨ (s.aboutTo .reset ∧ t = s.inputTaken.platformReset) ∨ RaisedAtIssue s.inputTaken t ∨
      (s.status.busy = false ∧
        ∃ w j, s.aboutTo (.host (.wr 0x00 w)) ∧ decodeWord w = .instr j ∧ AcceptedFrom j s t) := by
  obtain ⟨-, ⟨hagent, hturn⟩ | ⟨-, -, rfl⟩ | ⟨i, habout, hinput⟩⟩ := step_cases h
  · obtain ⟨-, rfl⟩ | ⟨hb, hstep⟩ := sequencerTurn_cases hturn
    · exact .inr (.inl ⟨rfl, rfl, rfl⟩)
    · exact .inl ⟨hagent, hb, hstep⟩
  · exact .inr (.inl ⟨rfl, rfl, rfl⟩)
  · right
    have hagain : SameReports s.inputTaken s.turnTaken := ⟨rfl, rfl, rfl⟩
    obtain hsame | ⟨rfl, hreset⟩ | hraised | ⟨hb, w, j, rfl, hj, hacc⟩ := performInput_outcome hagain hinput
    · exact .inl hsame
    · exact .inr (.inl ⟨habout, hreset⟩)
    · exact .inr (.inr (.inl hraised))
    · exact .inr (.inr (.inr ⟨hb, w, j, habout, hj, hacc⟩))

/-! ERR, FAULT_STEP and the lock flags over a step. -/

/-- Settles O39: a fault sets a bit and clears none, so only reset and the acceptance of CLRERR are left. -/
theorem errBitsAreSticky : Obligations.ErrBitsAreSticky := by
  intro s t c h hset hclear
  have lost : ∀ e : Err, t.err = e → e.has c = false := fun e he => he ▸ hclear
  have kept : t.err ≠ s.err := fun he => by simp [lost _ he] at hset
  have notRaised : ∀ c', t.err ≠ s.err.set c' := fun c' he => by
    simpa [lost _ he] using Err.has_set_of_has c' hset
  obtain ⟨-, -, hstep⟩ | ⟨-, herr, -⟩ | ⟨hreset, -⟩ | ⟨c', -, rfl⟩ | ⟨hb, w, j, habout, hj, herr, -⟩ := step_outcome h
  · obtain ⟨-, ⟨herr, -⟩ | ⟨u, c', rfl, -, herr, -⟩⟩ := sequencerStep_outcome hstep
    · exact absurd herr kept
    · exact absurd ((State.raise_err u c').trans (by rw [herr]; rfl)) (notRaised c')
  · exact absurd herr kept
  · exact .inl hreset
  · exact absurd (State.raise_err _ c') (notRaised c')
  · split at herr
    · rename_i hclr
      subst hclr
      rw [eq_encode_of_decodeWord hj] at habout
      exact .inr ⟨hb, habout⟩
    · exact absurd herr kept

/-- Settles O40: of all that a step can do, reset and a micro-step's fault alone write FAULT_STEP. -/
theorem faultStepRecordsFaultingStep : Obligations.FaultStepRecordsFaultingStep := by
  intro s t h hne
  obtain ⟨hagent, hb, hstep⟩ | ⟨-, -, hsame⟩ | ⟨hreset, -⟩ | hraised | ⟨-, w, j, -, -, -, hsame, -⟩ := step_outcome h
  · obtain ⟨-, ⟨-, hsame⟩ | ⟨u, c, rfl, hc, -, hq⟩⟩ := sequencerStep_outcome hstep
    · exact absurd hsame hne
    · obtain ⟨hfault, hidle, hdone, hfail, hzero⟩ := State.raise_of_sequencer hc u
      exact .inr ⟨hagent, hb, hfault.trans hq, hidle, hdone, hfail, hzero⟩
  · exact absurd hsame hne
  · exact .inl hreset
  · exact absurd hraised.faultStep hne
  · exact absurd hsame hne

/-- Settles O41: acceptance and reset only clear the lock flags, and faults leave them; a lock read that reports lock
is left. -/
theorem lockFlagsNeedLockReads : Obligations.LockFlagsNeedLockReads := by
  intro s t h
  have notNew : ∀ {a b : Bool} {P : Prop}, (b = true → a = true) → a = false → b = true → P :=
    fun hmono h0 h1 => by cases h0.symm.trans (hmono h1)
  obtain ⟨hagent, hb, hstep⟩ | ⟨hsame, -⟩ | ⟨-, rfl⟩ | hraised | ⟨-, w, j, -, -, -, -, hpre, hpost⟩ := step_outcome h
  · have hread : reportsLock s.turnTaken.cfg s.turnTaken.lockAnswer =
        (s.lockAnswerAt 0).getLsbD s.cfg.consts.lockBit := by rw [lockAnswer_eq]; rfl
    rw [← hread]
    obtain ⟨⟨hpre, hpost⟩ | ⟨hq, hlock, hpost⟩ | ⟨hq, hlock, hpre⟩, -⟩ := sequencerStep_outcome hstep
    · exact ⟨notNew hpre, notNew hpost⟩
    · exact ⟨fun _ _ => ⟨hagent, hb, hq, hlock⟩, notNew hpost⟩
    · exact ⟨notNew hpre, fun _ _ => ⟨hagent, hb, hq, hlock⟩⟩
  · rw [hsame]
    exact ⟨notNew id, notNew id⟩
  · exact ⟨nofun, nofun⟩
  · obtain ⟨hpre, hpost⟩ := hraised.noNewLock
    exact ⟨notNew hpre, notNew hpost⟩
  · exact ⟨notNew hpre, notNew hpost⟩

end Sys2Proof.Machine
end

section
/-! What the sequencer does not read: CMD and the input registers. Each of its operations commutes with replacing them by
those of another state (10_state.md R35, 20_memory.md R86), so a turn does; and a turn that commutes with replacing them
by what they are writes none of them. -/

namespace Sys2Proof.Machine

/-- The state `s` with the registers that only the host writes as they are in `u`. -/
def State.withInputsOf (s u : State) : State :=
  { s with cmd := u.cmd, rate := u.rate, mode := u.mode, cscFormat := u.cscFormat, cscEncoding := u.cscEncoding }

theorem advance_withInputsOf (s u : State) : (s.withInputsOf u).advance = s.advance.withInputsOf u := by
  have hnext : following (s.withInputsOf u).seqStep (stepList (s.withInputsOf u).cfg (s.withInputsOf u).latch.op) =
    following s.seqStep (stepList s.cfg s.latch.op) := rfl
  unfold State.advance
  rw [hnext]
  split <;> rfl

theorem raise_withInputsOf (s u : State) (c : Cause) : (s.withInputsOf u).raise c = (s.raise c).withInputsOf u := by
  cases c <;> rfl

theorem perform_withInputsOf (s u : State) (a : Access) :
    (s.withInputsOf u).perform a = (s.perform a).withInputsOf u := by
  cases a <;> rfl

theorem lockReadLogged_withInputsOf (s u : State) (n : Nat) :
    (s.withInputsOf u).lockReadLogged n = (s.lockReadLogged n).withInputsOf u := by
  simp only [State.lockReadLogged, lockAnswered_eq]
  rfl

/-- A choice that does not read the inputs, between two operations that commute with replacing them. -/
theorem ite_withInputsOf {p : Prop} [Decidable p] {a b a' b' u : State} (ha : a' = a.withInputsOf u)
    (hb : b' = b.withInputsOf u) : (if p then a' else b') = (if p then a else b).withInputsOf u := by
  subst ha hb
  split <;> rfl

theorem pollFailed_withInputsOf (s u : State) (c : Cause) :
    (s.withInputsOf u).pollFailed c = (s.pollFailed c).withInputsOf u :=
  ite_withInputsOf (raise_withInputsOf { s with pollcnt := s.pollcnt + 1 } u c) rfl

theorem stepPollPre_withInputsOf (s u : State) : (s.withInputsOf u).stepPollPre = s.stepPollPre.withInputsOf u := by
  unfold State.stepPollPre
  rw [lockReadLogged_withInputsOf]
  exact ite_withInputsOf rfl (pollFailed_withInputsOf _ u _)

theorem stepPollPost_withInputsOf (s u : State) : (s.withInputsOf u).stepPollPost = s.stepPollPost.withInputsOf u := by
  unfold State.stepPollPost
  rw [lockReadLogged_withInputsOf]
  exact ite_withInputsOf rfl (pollFailed_withInputsOf _ u _)

theorem stepMapFmt_withInputsOf (s u : State) : (s.withInputsOf u).stepMapFmt = s.stepMapFmt.withInputsOf u := by
  have hrow : lookupFormat (s.withInputsOf u).cfg.fmtMap (s.withInputsOf u).latch.fmt =
    lookupFormat s.cfg.fmtMap s.latch.fmt := rfl
  unfold State.stepMapFmt
  rw [hrow]
  split
  · rfl
  · exact ite_withInputsOf (ite_withInputsOf rfl rfl) rfl

theorem sequencerTurn_withInputsOf {s t : State} (h : sequencerTurn s = .next t) (u : State) :
    sequencerTurn (s.withInputsOf u) = .next (t.withInputsOf u) := by
  obtain ⟨hb, rfl⟩ | ⟨hb, hstep⟩ := sequencerTurn_cases h
  · exact sequencerTurn_of_idle (s := t.withInputsOf u) hb
  have hb' : (s.withInputsOf u).status.busy = true := hb
  obtain ⟨hm, ⟨hq, rfl⟩ | ⟨hq, rfl⟩ | ⟨hq, rfl⟩ | ⟨hq, rfl⟩ | ⟨hq, rfl⟩ | ⟨hreg, a, ha, rfl⟩⟩ := sequencerStep_cases hstep
  · rw [turn_solvePre hb' hq (hq ▸ hm), ← advance_withInputsOf]
    rfl
  · rw [turn_solvePost hb' hq (hq ▸ hm), ← advance_withInputsOf]
    rfl
  · rw [turn_pollPre hb' hq (hq ▸ hm), stepPollPre_withInputsOf]
  · rw [turn_pollPost hb' hq (hq ▸ hm), stepPollPost_withInputsOf]
  · rw [turn_mapFmt hb' hq (hq ▸ hm), stepMapFmt_withInputsOf]
  · have ha' : stepAccess (s.withInputsOf u) = some a := (stepAccess_congr rfl rfl rfl rfl rfl rfl).trans ha
    rw [sequencerTurn_of_busy hb', sequencerStep_register (s := s.withInputsOf u) hm hreg, State.stepRegister, ha',
      ← advance_withInputsOf, ← perform_withInputsOf]

/-- A turn writes none of the registers it does not read: replaced by themselves, they come out as they went in. -/
theorem sequencerTurn_keeps_inputs {s t : State} (h : sequencerTurn s = .next t) :
    t.rate = s.rate ∧ t.mode = s.mode ∧ t.cscFormat = s.cscFormat ∧ t.cscEncoding = s.cscEncoding ∧ t.cmd = s.cmd := by
  have hself : t = t.withInputsOf s := Host.Outcome.next.inj (h.symm.trans (sequencerTurn_withInputsOf h s))
  exact ⟨(congrArg State.rate hself :), (congrArg State.mode hself :), (congrArg State.cscFormat hself :),
    (congrArg State.cscEncoding hself :), (congrArg State.cmd hself :)⟩

/-! The latches. -/

@[simp] theorem State.lockReadLogged_latch (s : State) (n : Nat) : (s.lockReadLogged n).latch = s.latch := by
  simp [State.lockReadLogged]

@[simp] theorem State.pollFailed_latch (s : State) (c : Cause) : (s.pollFailed c).latch = s.latch := by
  rcases State.pollFailed_cases s c with e | e <;> simp [e]

@[simp] theorem State.stepPollPre_latch (s : State) : s.stepPollPre.latch = s.latch := by
  unfold State.stepPollPre
  simp only
  split <;> simp

@[simp] theorem State.stepPollPost_latch (s : State) : s.stepPollPost.latch = s.latch := by
  unfold State.stepPollPost
  simp only
  split <;> simp

@[simp] theorem State.stepMapFmt_latch (s : State) : s.stepMapFmt.latch = s.latch := by
  unfold State.stepMapFmt
  split
  · simp
  · simp only
    split_ifs <;> simp

theorem sequencerTurn_latch {s t : State} (h : sequencerTurn s = .next t) : t.latch = s.latch := by
  obtain ⟨-, rfl⟩ | ⟨-, hstep⟩ := sequencerTurn_cases h
  · rfl
  obtain ⟨-, ⟨-, rfl⟩ | ⟨-, rfl⟩ | ⟨-, rfl⟩ | ⟨-, rfl⟩ | ⟨-, rfl⟩ | ⟨-, a, -, rfl⟩⟩ := sequencerStep_cases hstep <;>
    simp [State.stepSolvePre, State.stepSolvePost]

/-- Settles O42: a turn commutes with replacing the input registers, so it neither reads nor writes them. -/
theorem runningCommandIgnoresInputs : Obligations.RunningCommandIgnoresInputs := by
  intro s t rate fmt enc mode h
  obtain ⟨hrate, hmode, hfmt, henc, hcmd⟩ := sequencerTurn_keeps_inputs h
  refine ⟨?_, hrate, hmode, hfmt, henc, hcmd, sequencerTurn_latch h, sequencerTurn_cfg h⟩
  have hother := sequencerTurn_withInputsOf h { s with rate := rate, mode := mode, cscFormat := fmt, cscEncoding := enc }
  simpa only [State.withInputsOf, ← hcmd] using hother

end Sys2Proof.Machine
end

section
/-! The register spaces and who accesses them (20_memory.md R70 to R83): a write replaces one register, the host reaches
neither foreign block, and the accesses of a micro-step are at most two, all to listed registers. -/

namespace Sys2Proof.Machine

/-- Settles O34: the laws of MemRead after MemWrite, of the same register and of another. -/
theorem registerWriteReplacesOneRegister : Obligations.RegisterWriteReplacesOneRegister :=
  fun s _ _ off _ w hspace => ⟨s.memRead_memWrite_same off w hspace, s.memRead_memWrite_other w⟩

/-! The host and the foreign blocks. -/

/-- What the machine holds of the two foreign blocks: the record of the engine's accesses, their registers, the epoch
that unwritten registers are drawn from, and the lock oracle. -/
def State.foreignPart (s : State) : List Event × RegSpace × RegSpace × Nat × List Byte × Nat :=
  (s.history, s.tx, s.dc, s.epoch, s.lockAnswers, s.lockDraws)

theorem State.foreignPart_eq_iff {s t : State} : t.foreignPart = s.foreignPart ↔
    t.history = s.history ∧ t.tx = s.tx ∧ t.dc = s.dc ∧ t.epoch = s.epoch ∧ t.lockAnswers = s.lockAnswers ∧
      t.lockDraws = s.lockDraws := by
  simp only [State.foreignPart, Prod.mk.injEq]

@[simp] theorem State.raise_foreignPart (s : State) (c : Cause) : (s.raise c).foreignPart = s.foreignPart := by
  cases c <;> rfl

theorem State.issue_foreignPart {s accepted t : State} (h : s.issue accepted = .next t)
    (ha : accepted.foreignPart = s.foreignPart) : t.foreignPart = s.foreignPart := by
  obtain ⟨-, rfl⟩ | ⟨-, rfl⟩ := State.issue_cases h
  · simp
  · exact ha

/-- Acceptance of any command, or the refusal of its operand, makes no access. -/
theorem exec_foreignPart {i : Instr} {s t : State} (h : exec i s = .next t) : t.foreignPart = s.foreignPart := by
  cases i with
  | vtDc panel | cscLoad slot =>
    refine State.issue_foreignPart h ?_
    split
    · rfl
    · simp
  | nop | pllSolvepre | pllSolvepost | pllProgram | pllWaitlock | pllConfigure | vtTx | cscMapfmt | clrerr =>
    exact State.issue_foreignPart h rfl

theorem issueWord_foreignPart {w : Word} {s t : State} (h : issueWord w s = .next t) :
    t.foreignPart = s.foreignPart := by
  unfold issueWord at h
  split at h
  · cases h; simp
  · split at h
    · cases h; simp
    · exact exec_foreignPart h

@[simp] theorem State.writeRegister_foreignPart (s : State) (v : Word) (r : EngReg) :
    (s.writeRegister v r).foreignPart = s.foreignPart := by
  rw [State.writeRegister_frame]
  rfl

theorem windowWrite_foreignPart {index : Nat} {v : Word} {s t : State} (h : windowWrite index v s = .next t) :
    t.foreignPart = s.foreignPart := by
  unfold windowWrite at h
  split at h
  · exact issueWord_foreignPart h
  · cases h; simp
  · cases h; rfl

/-- `again` is the state a WAIT that is not over goes on from. -/
theorem performInput_host_foreignPart {op : HostOp} {again s t : State} (ha : again.foreignPart = s.foreignPart)
    (h : performInput (.host op) again s = .next t) : t.foreignPart = s.foreignPart := by
  cases op with
  | wr index v => exact windowWrite_foreignPart h
  | rd index => cases h; rfl
  | wait =>
    cases h
    split
    · exact ha
    · rfl

/-- Settles O43: the step is the host's statement, and a statement, command issue included, keeps what the machine holds
of the foreign blocks. -/
theorem hostNeverTouchesForeignBlocks : Obligations.HostNeverTouchesForeignBlocks := by
  intro s t op habout h
  obtain ⟨hv, -⟩ := step_cases h
  rw [step_outside hv habout] at h
  exact State.foreignPart_eq_iff.1 (performInput_host_foreignPart (again := s.turnTaken) (s := s.inputTaken) rfl h)

/-! What the outside records: nothing. -/

theorem foreignWrite_history {space : Space} {off : Nat} {v : Word} {s t : State}
    (h : foreignWrite space off v s = .next t) : t.history = s.history := by
  obtain e | e | ⟨e, -⟩ := foreignWrite_cases space off v s <;> rw [e] at h <;> cases h
  · simp
  · rfl

/-- The event history holds the engine's accesses only (20_memory.md R88). -/
theorem performInput_history {i : Input} {again s t : State} (ha : again.foreignPart = s.foreignPart)
    (h : performInput i again s = .next t) : t.history = s.history := by
  match i with
  | .host op => exact (State.foreignPart_eq_iff.1 (performInput_host_foreignPart ha h)).1
  | .reset => cases h; rfl
  | .foreignTx index v => exact foreignWrite_history (space := .tx) h
  | .foreignDc index v => exact foreignWrite_history (space := .dc) h

/-! Which registers a register step names. -/

/-- The access is to a register of 20_memory.md section 1. -/
def Access.Listed (c : Config) : Access → Prop
  | .txWrite n _ | .txModify n _ _ => n ∈ txRegisters c
  | .dcWrite off _ => off ∈ dcOffsets c

/-- Steps 0x1D to 0x2D are those of VT.TX alone, and steps 0x30 to 0x33 those of VT.DC alone (30_encoding.md R110). -/
theorem command_of_timing_step {c : Config} {op a : Byte} (h : a ∈ stepList c op) :
    (0x1D ≤ a.toNat ∧ a.toNat ≤ 0x2D → a ∈ timingSteps c) ∧ (0x30 ≤ a.toNat ∧ a.toNat ≤ 0x33 → op = 0x11) := by
  have outside (l : List Byte) (hl : ∀ x ∈ l, ¬ (0x1D ≤ x.toNat ∧ x.toNat ≤ 0x33)) (ha : a ∈ l) :
      ¬ (0x1D ≤ a.toNat ∧ a.toNat ≤ 0x33) := hl a ha
  unfold stepList at h
  split_ifs at h with _ _ _ _ _ _ hpanel
  rotate_left 5
  · have hlast := (by decide : ∀ x ∈ allTimingSteps, x.toNat ≤ 0x2D) a (mem_allTimingSteps h)
    exact ⟨fun _ => h, fun _ => by omega⟩
  · have hfirst := (by decide : ∀ x ∈ ([0x30, 0x31, 0x32, 0x33] : List Byte), 0x30 ≤ x.toNat) a h
    exact ⟨fun _ => by omega, fun _ => hpanel⟩
  all_goals
    have hout := outside _ (by decide) h
    exact ⟨fun _ => by omega, fun _ => by omega⟩

/-- 40_pll.md R145: a PLL step names a register up to POST_PLL_POSTDIV. -/
theorem pllAccess_listed {c : Config} {pre : PreResult} {post : PostResult} {n : Nat} {a : Access}
    (h : pllAccess c pre post n = some a) : a.Listed c := by
  unfold pllAccess at h
  split at h <;> cases h <;> exact mem_txRegisters_pll c (by decide)

/-- 41_timing.md R186: a step of VT.TX writes the register whose number is the step's. -/
theorem timingAccess_eq {c : Config} {m : Mode} {n : Nat} {a : Access} (h : timingAccess c m n = some a) :
    0x1D ≤ n ∧ n ≤ 0x2D ∧ ∃ b, a = .txWrite n b := by
  unfold timingAccess at h
  split at h <;> cases h <;> exact ⟨by decide, by decide, _, rfl⟩

theorem timingOffset_mem_dcOffsets (c : Config) {k p : Nat} (hk : k < 4) (hp : p < 2) :
    timingOffset c k p ∈ dcOffsets c := by
  have hmem : timingOffset c k p ∈ timingOffsets c := by
    interval_cases p <;> interval_cases k <;> simp [timingOffsets]
  simp [dcOffsets, hmem]

theorem coefOffset_mem_dcOffsets (c : Config) {s k : Nat} (hs : s < 6) (hk : k < 10) :
    coefOffset c s k ∈ dcOffsets c := by
  have hmem : coefOffset c s k ∈ bankOffsets c s := by
    interval_cases k <;> simp [bankOffsets]
  interval_cases s <;> simp [dcOffsets, hmem]

/-- 41_timing.md R195: a step of VT.DC writes the timing word of its number. -/
theorem panelAccess_eq {c : Config} {m : Mode} {p n : Nat} {a : Access} (h : panelAccess c m p n = some a) :
    0x30 ≤ n ∧ n ≤ 0x33 ∧ ∃ w, a = .dcWrite (timingOffset c (n - 0x30) p) w := by
  unfold panelAccess at h
  split at h <;> cases h <;> exact ⟨by decide, by decide, _, rfl⟩

/-- 42_colour.md R220: a coefficient step writes the coefficient register of its number. -/
theorem coefAccess_eq {c : Config} {sel : BitVec 2} {slot n : Nat} {a : Access}
    (h : coefAccess c sel slot n = some a) :
    0x41 ≤ n ∧ n ≤ 0x4A ∧ ∃ w, a = .dcWrite (coefOffset c slot (n - 0x41)) w := by
  unfold coefAccess at h
  split at h
  · rename_i hn
    obtain ⟨t, -, rfl⟩ := Option.map_eq_some_iff.1 h
    exact ⟨hn.1, hn.2, _, rfl⟩
  · cases h

/-- A register step makes the access of one of the four units. -/
theorem stepAccess_cases {s : State} {a : Access} (h : stepAccess s = some a) :
    pllAccess s.cfg s.pre s.post s.seqStep.toNat = some a ∨
      timingAccess s.cfg s.latch.mode s.seqStep.toNat = some a ∨
      panelAccess s.cfg s.latch.mode s.latch.sel.toNat s.seqStep.toNat = some a ∨
      coefAccess s.cfg s.cscResult.tableSel s.latch.sel.toNat s.seqStep.toNat = some a := by
  unfold stepAccess at h
  simp only at h
  split at h
  · rename_i hp; cases h; exact .inl hp
  · split at h
    · rename_i ht; cases h; exact .inr (.inl ht)
    · split at h
      · rename_i hd; cases h; exact .inr (.inr (.inl hd))
      · exact .inr (.inr (.inr h))

/-- 30_encoding.md R103: the latched operand of a command that has one is in range. -/
theorem Consistent.sel_lt {s : State} (h : Consistent s) :
    (s.latch.op = 0x11 → s.latch.sel.toNat < 2) ∧ (s.latch.op = 0x21 → s.latch.sel.toNat < 6) := by
  obtain ⟨i, hwf, -, hop, hsel⟩ := h.accepted
  rw [hop, hsel]
  cases i with
  | vtDc panel => exact ⟨fun _ => of_decide_eq_true hwf, nofun⟩
  | cscLoad slot => exact ⟨nofun, fun _ => of_decide_eq_true hwf⟩
  | _ => exact ⟨nofun, nofun⟩

/-- 20_memory.md R72: a register step of a consistent state names a listed register. -/
theorem stepAccess_listed {s : State} {a : Access} (hc : Consistent s) (hm : s.seqStep ∈ stepList s.cfg s.latch.op)
    (h : stepAccess s = some a) : a.Listed s.cfg := by
  obtain ⟨hpanel, hslot⟩ := hc.sel_lt
  obtain ⟨htx, hdc⟩ := command_of_timing_step hm
  obtain hpll | htiming | hpanelAcc | hcoef := stepAccess_cases h
  · exact pllAccess_listed hpll
  · obtain ⟨hlo, hhi, b, rfl⟩ := timingAccess_eq htiming
    exact mem_txRegisters_timing (htx ⟨hlo, hhi⟩)
  · obtain ⟨hlo, hhi, w, rfl⟩ := panelAccess_eq hpanelAcc
    exact timingOffset_mem_dcOffsets _ (by omega) (hpanel (hdc ⟨hlo, hhi⟩))
  · obtain ⟨hlo, hhi, w, rfl⟩ := coefAccess_eq hcoef
    have hstep : s.seqStep ∈ coefSteps := by
      have all : ∀ x : Byte, 0x41 ≤ x.toNat ∧ x.toNat ≤ 0x4A → x ∈ coefSteps := by decide
      exact all _ ⟨hlo, hhi⟩
    exact coefOffset_mem_dcOffsets _ (hslot ((opcode_of_step hm).1 hstep)) (by omega)

/-! What a micro-step records. -/

/-- The event is an access under the step at which `s` stands, to a listed register, and no display-controller read. -/
def ListedEvent (s : State) (e : Event) : Prop :=
  e.step = s.seqStep ∧
    ((e.space = .tx ∧ e.address ∈ (txOffsets s.cfg).map (byteAddress s.cfg .tx)) ∨
     (e.space = .dc ∧ e.kind = .write ∧ e.address ∈ (dcOffsets s.cfg).map (byteAddress s.cfg .dc)))

/-- From `s` to `t` the history grew by at most two events, all listed. -/
def AddsListedEvents (s t : State) : Prop :=
  ∃ new, t.history = s.history ++ new ∧ new.length ≤ 2 ∧ ∀ e ∈ new, ListedEvent s e

theorem AddsListedEvents.of_history_eq {s t : State} (h : t.history = s.history) : AddsListedEvents s t :=
  ⟨[], by simp [h], by simp, by simp⟩

/-- An access to an HDMI-block register the block has. -/
theorem listedEvent_tx (s : State) {n : Nat} (h : n ∈ txRegisters s.cfg) (kind : AccessKind) (w : Word) :
    ListedEvent s { step := s.seqStep, kind := kind, space := .tx, address := byteAddress s.cfg .tx (txByteOffset s.cfg n),
                    value := w } :=
  ⟨rfl, .inl ⟨rfl, List.mem_map_of_mem (List.mem_map_of_mem h)⟩⟩

theorem perform_addsListedEvents {s : State} {a : Access} (h : a.Listed s.cfg) : AddsListedEvents s (s.perform a) := by
  cases a with
  | txWrite n b =>
    have hist : (s.perform (.txWrite n b)).history = s.history ++ [txWriteEvent s.cfg s.seqStep n b] := rfl
    exact ⟨_, hist, by simp, List.forall_mem_singleton.2 (listedEvent_tx s h .write _)⟩
  | txModify n m b =>
    exact ⟨_, performList_txModify_history s s.seqStep n m b, by simp,
      List.forall_mem_cons.2 ⟨listedEvent_tx s h .read _, List.forall_mem_singleton.2 (listedEvent_tx s h .write _)⟩⟩
  | dcWrite off w =>
    have hist : (s.perform (.dcWrite off w)).history = s.history ++ [dcWriteEvent s.cfg s.seqStep off w] := rfl
    exact ⟨_, hist, by simp, List.forall_mem_singleton.2 ⟨rfl, .inr ⟨rfl, rfl, List.mem_map_of_mem h⟩⟩⟩

theorem State.lockReadLogged_history (s : State) (n : Nat) :
    (s.lockReadLogged n).history = s.history ++ [lockEvent s.cfg s.seqStep n s.lockAnswer] := by
  simp [State.lockReadLogged, State.logAccess, lockEvent]

theorem lockReadLogged_addsListedEvents (s : State) {n : Nat} (h : n ≤ 0x12) :
    AddsListedEvents s (s.lockReadLogged n) :=
  ⟨_, s.lockReadLogged_history n, by simp,
    List.forall_mem_singleton.2 (listedEvent_tx s (mem_txRegisters_pll _ h) .read _)⟩

@[simp] theorem State.pollFailed_history (s : State) (c : Cause) : (s.pollFailed c).history = s.history := by
  rcases State.pollFailed_cases s c with e | e <;> simp [e]

/-- A poll records its lock read and nothing else. -/
theorem State.stepPollPre_history (s : State) : s.stepPollPre.history = (s.lockReadLogged regPrePllLock).history := by
  unfold State.stepPollPre
  simp only
  split <;> simp

theorem State.stepPollPost_history (s : State) : s.stepPollPost.history = (s.lockReadLogged regPostPllLock).history := by
  unfold State.stepPollPost
  simp only
  split <;> simp

theorem State.stepMapFmt_history (s : State) : s.stepMapFmt.history = s.history := by
  unfold State.stepMapFmt
  split
  · simp
  · simp only
    split_ifs <;> simp

/-- The history alone decides. -/
theorem AddsListedEvents.congr {s t u : State} (h : AddsListedEvents s t) (hu : u.history = t.history) :
    AddsListedEvents s u := by
  unfold AddsListedEvents
  rwa [hu]

theorem sequencerTurn_addsListedEvents {s t : State} (hc : Consistent s) (h : sequencerTurn s = .next t) :
    AddsListedEvents s t := by
  obtain ⟨-, rfl⟩ | ⟨-, hstep⟩ := sequencerTurn_cases h
  · exact .of_history_eq rfl
  obtain ⟨hm, ⟨-, rfl⟩ | ⟨-, rfl⟩ | ⟨-, rfl⟩ | ⟨-, rfl⟩ | ⟨-, rfl⟩ | ⟨-, a, ha, rfl⟩⟩ := sequencerStep_cases hstep
  · exact .of_history_eq (by simp [State.stepSolvePre])
  · exact .of_history_eq (by simp [State.stepSolvePost])
  · exact (lockReadLogged_addsListedEvents s (by decide)).congr s.stepPollPre_history
  · exact (lockReadLogged_addsListedEvents s (by decide)).congr s.stepPollPost_history
  · exact .of_history_eq s.stepMapFmt_history
  · exact (perform_addsListedEvents (stepAccess_listed hc hm ha)).congr (by simp)

/-- Settles O35: a turn of the sequencer records the accesses of one micro-step, and the outside records none. -/
theorem engineAccessesListedRegisters : Obligations.EngineAccessesListedRegisters := by
  intro s t hc h
  change AddsListedEvents s t
  obtain ⟨-, ⟨-, hturn⟩ | ⟨-, -, rfl⟩ | ⟨i, -, hinput⟩⟩ := step_cases h
  · exact sequencerTurn_addsListedEvents (s := s.turnTaken) (hc.queues _ _) hturn
  · exact .of_history_eq rfl
  · exact .of_history_eq (performInput_history (again := s.turnTaken) (s := s.inputTaken) rfl hinput)

end Sys2Proof.Machine
end

section
/-! The command word (30_encoding.md R100 to R111): which words decode to which command, which are illegal, and what a
step does with a word written to CMD, with a turn of the sequencer and with WAIT. -/

namespace Sys2Proof

/-! Decoding the fields. -/

theorem decodeFields_of_zero_ne {zero : Half} (h : zero ≠ 0) (op sel : Byte) :
    decodeFields op sel zero = .reject .zeroFieldSet := if_pos h

theorem decodeFields_of_plainCommand {op : Byte} {i : Instr} (h : plainCommand op = some i) (sel : Byte) :
    decodeFields op sel 0 = if sel = 0 then .instr i else .reject .selNotTaken := by
  obtain ⟨-, -, hpanel, hslot⟩ := plainCommand_some h
  rw [decodeFields, if_neg (not_not_intro rfl), if_neg hpanel, if_neg hslot, h]

theorem decodeFields_of_unknownOpcode {op : Byte} (hpanel : op ≠ 0x11) (hslot : op ≠ 0x21)
    (h : plainCommand op = none) (sel : Byte) : decodeFields op sel 0 = .reject .unknownOpcode := by
  rw [decodeFields, if_neg (not_not_intro rfl), if_neg hpanel, if_neg hslot, h]

theorem decodeFields_opcode_sel (i : Instr) : decodeFields i.opcode i.sel 0 = .instr i := by cases i <;> rfl

/-- The opcode map of 30_encoding.md R102. -/
theorem mem_opcodes_iff {op : Byte} :
    op ∈ ([0x00, 0x01, 0x02, 0x03, 0x04, 0x05, 0x10, 0x11, 0x20, 0x21, 0x7F] : List Byte) ↔
      op = 0x11 ∨ op = 0x21 ∨ plainCommand op ≠ none := by
  unfold plainCommand
  split_ifs <;> simp_all

/-- The fields of an illegal word (30_encoding.md R111). -/
theorem exists_decodeFields_eq_reject_iff {op sel : Byte} {zero : Half} :
    (∃ r, decodeFields op sel zero = .reject r) ↔
      zero ≠ 0 ∨ op ∉ ([0x00, 0x01, 0x02, 0x03, 0x04, 0x05, 0x10, 0x11, 0x20, 0x21, 0x7F] : List Byte) ∨
      (op ∉ ([0x11, 0x21] : List Byte) ∧ sel ≠ 0) := by
  rw [mem_opcodes_iff]
  by_cases hzero : zero = 0
  case neg => exact iff_of_true ⟨_, decodeFields_of_zero_ne hzero op sel⟩ (.inl hzero)
  subst hzero
  by_cases hpanel : op = 0x11
  · subst hpanel
    exact iff_of_false nofun (by simp)
  by_cases hslot : op = 0x21
  · subst hslot
    exact iff_of_false nofun (by simp)
  cases hplain : plainCommand op with
  | none =>
    exact iff_of_true ⟨_, decodeFields_of_unknownOpcode hpanel hslot hplain sel⟩ (.inr (.inl (by simp_all)))
  | some i =>
    rw [decodeFields_of_plainCommand hplain]
    split
    · exact iff_of_false nofun (by simp_all)
    · exact iff_of_true ⟨_, rfl⟩ (.inr (.inr ⟨by simp_all, ‹_›⟩))

/-! Decoding the word. -/

theorem decodeWord_encode (i : Instr) : decodeWord (encode i) = .instr i := by
  obtain ⟨hop, hsel, hzero⟩ : Laws.EncodeFields.Statement i := Laws.EncodeFields.fields_of_word i.opcode i.sel
  rw [decodeWord, hop, hsel, hzero, decodeFields_opcode_sel]

theorem decodeWord_eq_instr_iff {i : Instr} {w : Word} : decodeWord w = .instr i ↔ encode i = w :=
  ⟨fun h => (Machine.eq_encode_of_decodeWord h).symm, fun h => h ▸ decodeWord_encode i⟩

/-- Settles O1: the encoded word carries the command's fields, which decode to the command; and the fields of a word
that decodes are those of the command, so that they put together the same word. -/
theorem decodeAndEncodeAgree : Obligations.DecodeAndEncodeAgree := fun _ _ => decodeWord_eq_instr_iff

theorem Decoded.exists_eq_reject_iff (d : Decoded) : (∃ r, d = .reject r) ↔ ¬ ∃ i, d = .instr i := by
  cases d <;> simp

/-- Settles O2: the decoder's tests on the fields are the three reasons of R111, and a word it does not reject is the
word of the command it decodes to. -/
theorem illegalWordsAreExactlyThese : Obligations.IllegalWordsAreExactlyThese := by
  intro w
  refine ⟨exists_decodeFields_eq_reject_iff, ?_⟩
  rw [Decoded.exists_eq_reject_iff]
  simp only [decodeWord_eq_instr_iff]

/-- Settles O3: the legal samples are words of commands, and the three illegal ones fail one test each. -/
theorem sampleWordsDecode : Obligations.SampleWordsDecode :=
  ⟨decodeWord_encode .pllConfigure, decodeWord_encode (.vtDc 1), decodeWord_encode (.cscLoad 4),
    decodeWord_encode (.vtDc 2), decodeWord_encode .clrerr, rfl, rfl, rfl⟩

namespace Machine

/-! Steps. -/

/-- The issue of a legal word is the issue of its command, BUSY or not: both raise CmdBusy while BUSY. -/
theorem issueWord_of_decodeWord {w : Word} {i : Instr} (h : decodeWord w = .instr i) (s : State) :
    issueWord w s = exec i s := by
  unfold issueWord
  split
  · rename_i hbusy
    exact (exec_of_busy i hbusy).symm
  · rw [h]

/-- Settles O4: the step is the host's write to CMD, which issues the command the word decodes to. -/
theorem stepIssuesDecodedCommand : Obligations.StepIssuesDecodedCommand := by
  intro s w i hv habout hw
  obtain ⟨-, hissue⟩ := stepPerformsHostWrite s 0x00 w hv habout
  rw [hissue rfl, issueWord_of_decodeWord hw]

theorem step_sequencer {s : State} (hv : configValid s.cfg = true) (h : s.nextAgent = .sequencer) :
    step s = sequencerTurn s.turnTaken := by
  simp [step, hv, agentTurn, h]

theorem State.nextAgent_of_busy {s : State} (hturns : s.turns = []) (hbusy : s.status.busy = true) :
    s.nextAgent = .sequencer := by
  simp [State.nextAgent, hturns, hbusy]

/-- Settles O5: each clause is the branch its hypothesis selects. -/
theorem stepIsSequencerTurn : Obligations.StepIsSequencerTurn :=
  fun _ hv => ⟨step_sequencer hv, State.nextAgent_of_busy, sequencerTurn_of_busy, sequencerTurn_of_idle⟩

/-- Settles O51: the step reads STATUS, in the state that keeps the WAIT while BUSY and in the one without it
when idle. -/
theorem waitPollsStatus : Obligations.WaitPollsStatus := by
  intro s hv h
  have hread : step s = .next ((if s.status.busy then s.turnTaken else s.inputTaken).hostRead 0x01) := step_outside hv h
  rw [hread]
  cases s.status.busy <;> rfl

end Machine

end Sys2Proof
end

section
/-! Unit P (40_pll.md): the acceptance of its five commands, and what its two solvers compute. -/

namespace Sys2Proof.Machine

/-! Acceptance, while idle (30_encoding.md R105). -/

theorem State.issue_of_idle {s : State} (h : s.status.busy = false) (accepted : State) :
    s.issue accepted = .next accepted := by
  simp [State.issue, h]

/-- The acceptance of PLL.SOLVEPRE, 40_pll.md R131: clears FRAC_OVF; step 0x01. -/
def State.solvePreAccepted (s : State) : State :=
  { s with
    cmd := 0x00000001
    latch := s.snapshot 0x01 0
    status := { s.status with busy := true, done := false, fail := false, fracOvf := false }
    seqStep := 0x01 }

theorem exec_pllSolvepre {s : State} (h : s.status.busy = false) : exec .pllSolvepre s = .next s.solvePreAccepted :=
  State.issue_of_idle h _

/-- The acceptance of PLL.SOLVEPOST, 40_pll.md R139: clears OOR; step 0x02. -/
def State.solvePostAccepted (s : State) : State :=
  { s with
    cmd := 0x00000002
    latch := s.snapshot 0x02 0
    status := { s.status with busy := true, done := false, fail := false, oor := false }
    seqStep := 0x02 }

theorem exec_pllSolvepost {s : State} (h : s.status.busy = false) : exec .pllSolvepost s = .next s.solvePostAccepted :=
  State.issue_of_idle h _

/-- The acceptance of PLL.PROGRAM, 40_pll.md R144: clears the lock reports; step 0x03. -/
def State.programAccepted (s : State) : State :=
  { s with
    cmd := 0x00000003
    latch := s.snapshot 0x03 0
    status := { s.status with busy := true, done := false, fail := false, preLocked := false, postLocked := false }
    seqStep := 0x03 }

theorem exec_pllProgram {s : State} (h : s.status.busy = false) : exec .pllProgram s = .next s.programAccepted :=
  State.issue_of_idle h _

/-- The acceptance of PLL.WAITLOCK, 40_pll.md R159: clears the lock reports and POLLCNT; step 0x16. -/
def State.waitlockAccepted (s : State) : State :=
  { s with
    cmd := 0x00000004
    latch := s.snapshot 0x04 0
    status := { s.status with busy := true, done := false, fail := false, preLocked := false, postLocked := false }
    pollcnt := 0
    seqStep := 0x16 }

theorem exec_pllWaitlock {s : State} (h : s.status.busy = false) : exec .pllWaitlock s = .next s.waitlockAccepted :=
  State.issue_of_idle h _

/-- The acceptance of PLL.CONFIGURE, 40_pll.md R165: clears every flag of unit P and POLLCNT; step 0x01. -/
def State.configureAccepted (s : State) : State :=
  { s with
    cmd := 0x00000005
    latch := s.snapshot 0x05 0
    status := { busy := true, done := false, fail := false, oor := false, fracOvf := false, preLocked := false,
                postLocked := false }
    pollcnt := 0
    seqStep := 0x01 }

theorem exec_pllConfigure {s : State} (h : s.status.busy = false) : exec .pllConfigure s = .next s.configureAccepted :=
  State.issue_of_idle h _

/-! SOLVE_PRE. -/

/-- A step that is the last of its command's list retires. -/
theorem State.advance_of_last {s : State} (h : following s.seqStep (stepList s.cfg s.latch.op) = none) :
    s.advance = s.retire := by
  unfold State.advance
  rw [h]

theorem run_solvePre {s : State} (hb : s.status.busy = true) (hop : s.latch.op = 0x01) (hs : s.seqStep = 0x01) :
    sequencerRun 1 s = .next s.stepSolvePre.retire := by
  have hlist : stepList s.cfg s.latch.op = [0x01] := by rw [hop]; rfl
  have hlast : following s.seqStep (stepList s.cfg s.latch.op) = none := by rw [hlist]; rfl
  rw [sequencerRun_succ_of_turn 0 (turn_solvePre hb hs (by simp [hlist])), sequencerRun_zero,
    State.advance_of_last (s := s.stepSolvePre) hlast]

/-- Settles O12: while idle the command is accepted, and its one step is SOLVE_PRE, which retires. -/
theorem solvePreCompletes : Obligations.SolvePreCompletes := by
  rintro s k r q rem fr hidle rfl rfl rfl rfl rfl
  exact ⟨⟨_, exec_pllSolvepre hidle, rfl, run_solvePre rfl rfl rfl⟩, fun hk => by rw [hk]; decide⟩

/-- Settles O13: the quotient and the fraction fit their fields, so the fields hold them whole; the ranges are then those
of a remainder below the quantum of the branch. -/
theorem fractionRanges : Obligations.FractionRanges := by
  rintro c rate r q p hc rfl hq rfl
  have hrate := rate.isLt
  have hquantum : preQuantum c.consts rate.toNat = q := by rw [hc, hq]; rfl
  have hfraction : preFraction c.consts rate.toNat =
      if rate.toNat % q ≠ 0 then rate.toNat % q * 16777215 / 1000000 else 0 := by
    rw [preFraction, preRemainder, hquantum, hc]
  have hquotient : rate.toNat / q ≤ 1431 := by rw [hq]; split_ifs <;> omega
  have hfbdiv : (solvePre c rate.toNat).fbdiv.toNat = rate.toNat / q := by
    rw [← hquantum] at hquotient ⊢
    exact (BitVec.toNat_ofNat _ _).trans (Nat.mod_eq_of_lt (by omega))
  have hfracDiv : (solvePre c rate.toNat).fracDiv.toNat =
      if rate.toNat % q ≠ 0 then rate.toNat % q * 16777215 / 1000000 else 0 := by
    rw [← hfraction]
    exact (BitVec.toNat_ofNat _ _).trans (Nat.mod_eq_of_lt (by rw [hfraction, hq]; split_ifs <;> omega))
  have hfracEn : (solvePre c rate.toNat).fracEn = true ↔ rate.toNat % q ≠ 0 := by
    rw [← hquantum]
    exact decide_eq_true_iff
  have hprediv : (solvePre c rate.toNat).prediv = 1 := by
    rw [solvePre, hc]
  rw [hfbdiv, hfracEn, hfracDiv]
  refine ⟨hprediv, rfl, hquotient, Iff.rfl, rfl, ?_⟩
  rw [hq]
  split_ifs <;> omega

/-! SOLVE_POST. -/

theorem thresholdScan_eq_of_first {r i : Nat} {l : List Word} (hi : i < l.length) (hbelow : ∀ j (hj : j < i), l[j].toNat < r)
    (hat : r ≤ l[i].toNat) : thresholdScan r l = i := by
  induction l generalizing i with
  | nil => simp at hi
  | cons t rest ih =>
    cases i with
    | zero => exact if_neg (not_lt.2 hat)
    | succ i =>
      have hfirst : t.toNat < r := hbelow 0 (Nat.succ_pos i)
      rw [thresholdScan, if_pos hfirst, ih (by simpa using hi) (fun j hj => hbelow (j + 1) (by omega)) hat]

theorem le_thresholdScan {r i : Nat} {l : List Word} (hi : i ≤ l.length) (hbelow : ∀ j (hj : j < i), l[j].toNat < r) :
    i ≤ thresholdScan r l := by
  induction l generalizing i with
  | nil => exact hi
  | cons t rest ih =>
    cases i with
    | zero => exact Nat.zero_le _
    | succ i =>
      have hfirst : t.toNat < r := hbelow 0 (Nat.succ_pos i)
      rw [thresholdScan, if_pos hfirst]
      exact Nat.succ_le_succ (ih (by simpa using hi) (fun j hj => hbelow (j + 1) (by omega)))

theorem postSelect_val {k : Constants} (hn : k.nPost = 6) (r : Nat) :
    (postSelect k r).val = min (thresholdScan r k.postThr.toList) 5 := by
  rw [postSelect, hn]
  exact Nat.mod_eq_of_lt (by omega)

/-- The entry selected is the first whose threshold is at least the rate, or the last (40_pll.md R140). -/
theorem postSelect_eq {k : Constants} (hn : k.nPost = 6) {r : Word} {i : Fin 6}
    (hbelow : ∀ j : Fin 6, j < i → k.postThr[j] < r) (hat : r ≤ k.postThr[i] ∨ i = 5) : postSelect k r.toNat = i := by
  have hi := i.isLt
  have hbelow' : ∀ j (hj : j < i.val), (k.postThr.toList[j]'(by simp; omega)).toNat < r.toNat := fun j hj =>
    hbelow ⟨j, hj.trans hi⟩ hj
  apply Fin.ext
  rw [postSelect_val hn]
  rcases hat with hat | rfl
  · rw [thresholdScan_eq_of_first (by simp) hbelow' hat]
    omega
  · exact min_eq_right (le_thresholdScan (by simp) hbelow')

theorem run_solvePost {s : State} (hb : s.status.busy = true) (hop : s.latch.op = 0x02) (hs : s.seqStep = 0x02) :
    sequencerRun 1 s = .next s.stepSolvePost.retire := by
  have hlist : stepList s.cfg s.latch.op = [0x02] := by rw [hop]; rfl
  have hlast : following s.seqStep (stepList s.cfg s.latch.op) = none := by rw [hlist]; rfl
  rw [sequencerRun_succ_of_turn 0 (turn_solvePost hb hs (by simp [hlist])), sequencerRun_zero,
    State.advance_of_last (s := s.stepSolvePost) hlast]

/-- Settles O14: the one step is SOLVE_POST, whose scan stops at the entry the hypotheses describe. -/
theorem solvePostCompletes : Obligations.SolvePostCompletes := by
  rintro s i thr hv hidle rfl hbelow hat
  refine ⟨_, exec_pllSolvepost hidle, rfl, ?_⟩
  have hselect := postSelect_eq (counts_of_valid hv).2.2.1 hbelow hat
  rw [run_solvePost rfl rfl rfl, ← hselect, ← postOutOfRange_iff hv]
  rfl

/-- The scan with the thresholds of 00_scope.md R7. -/
theorem thresholdScan_default (r : Nat) : thresholdScan r ({} : Constants).postThr.toList =
    if r ≤ 25200000 then 0 else if r ≤ 27000000 then 1 else if r ≤ 33750000 then 2
    else if r ≤ 49000000 then 3 else if r ≤ 241700000 then 4 else if r ≤ 297000000 then 5 else 6 :=
  thresholdScan_six _ r

/-- Settles O15: each row of the table is a value of the scan; above the last threshold it is 6, and entry 5 is taken. -/
theorem postSelectionTable : Obligations.PostSelectionTable := by
  intro c r hc
  constructor
  · have hsel : (solvePost c r.toNat).sel.toNat = (postSelect c.consts r.toNat).val :=
      (BitVec.toNat_ofNat _ _).trans (Nat.mod_eq_of_lt (by omega))
    rw [hsel, hc, postSelect_val rfl, thresholdScan_default]
    split_ifs <;> rfl
  · rw [hc, postOutOfRange, thresholdScan_default]
    split_ifs <;> simp <;> omega

end Sys2Proof.Machine
end

section
/-! Unit P: PLL.PROGRAM, the nineteen accesses of 40_pll.md R145 and what they leave. -/

namespace Sys2Proof.Machine

/-- The state after the nineteen accesses of steps 0x03 to 0x15 (40_pll.md R145), before the end of the last step.
Irreducible, so that no comparison of states runs the accesses; `programmed_eq` opens it. -/
@[irreducible] def State.programmed (s : State) : State := s.performList (programAccesses s)

theorem State.programmed_eq (s : State) : s.programmed = s.performList (programAccesses s) := by
  rw [State.programmed]

/-- The sequence writes the HDMI block and the history. -/
theorem State.programmed_frame (s : State) : s.programmed = { s with
    tx := s.programmed.tx, history := s.programmed.history, seqStep := s.programmed.seqStep } := by
  rw [State.programmed_eq]
  have hframe := State.performList_frame s (programAccesses s)
  rwa [performList_program_dc] at hframe

theorem State.retire_programmed (s : State) : s.programmed.retire = { s with
    status := { s.status with busy := false, done := true }
    seqStep := 0
    tx := s.programmed.tx
    history := s.programmed.history } := by
  rw [State.programmed_frame]
  rfl

theorem run_program {s : State} (hb : s.status.busy = true) (hop : s.latch.op = 0x03) (hs : s.seqStep = 0x03) :
    sequencerRun 19 s = .next s.programmed.retire := by
  rw [State.programmed_eq]
  exact run_program_steps (p := []) (q := []) hb (by rw [hop]; rfl) hs

/-- What the registers of the sequence hold at its end: logical register, payload (40_pll.md R145). -/
def programCells (s : State) : List (Nat × Byte) :=
  [ (0x00, (s.memRead .tx (txByteOffset s.cfg 0x00)).setWidth 8 &&& ~~~s.cfg.prePdMask), (0x01, s.pre.prediv),
    (0x02, s.pre.fbdiv.extractLsb' 0 8), (0x03, s.pre.fbdiv.extractLsb' 8 8), (0x04, if s.pre.fracEn then 0x01 else 0x00),
    (0x05, s.pre.fracDiv.extractLsb' 0 8), (0x06, s.pre.fracDiv.extractLsb' 8 8),
    (0x07, s.pre.fracDiv.extractLsb' 16 8), (0x08, s.pre.divset.extractLsb' 0 8),
    (0x09, s.pre.divset.extractLsb' 8 8), (0x0A, s.pre.divset.extractLsb' 16 8),
    (0x0B, s.pre.divset.extractLsb' 24 8), (0x0C, postCtrlByte s.cfg s.post.postdivEn), (0x0D, s.post.prediv),
    (0x0E, s.post.fbdiv.extractLsb' 0 8), (0x0F, s.post.fbdiv.extractLsb' 8 8), (0x10, s.post.postdiv) ]

/-- They are PRE_PLL_CTRL, which is modified, and the registers written. -/
theorem programCells_perm (s : State) : (programCells s).Perm
    ((0x00, (s.memRead .tx (txByteOffset s.cfg 0x00)).setWidth 8 &&& ~~~s.cfg.prePdMask) ::
      (programWritesA s ++ programWritesB s).map Prod.snd) :=
  (List.perm_append_singleton _ _).symm.append_left ((programCells s).take 12)

theorem programmed_cells {s : State} (hv : configValid s.cfg = true) :
    ∀ cell ∈ programCells s, s.programmed.memRead .tx (txByteOffset s.cfg cell.1) = cell.2.setWidth 32 := by
  rw [State.programmed_eq]
  obtain ⟨-, hctrl, hwrites, -⟩ := performList_program hv rfl rfl
  intro cell hcell
  rcases List.mem_cons.1 ((programCells_perm s).subset hcell) with rfl | hcell
  · exact hctrl
  · obtain ⟨x, hx, rfl⟩ := List.mem_map.1 hcell
    exact hwrites x hx

theorem programmed_other {s : State} (hv : configValid s.cfg = true) {off : Nat}
    (h : ∀ n, n ≤ 0x10 → off ≠ txByteOffset s.cfg n) : s.programmed.memRead .tx off = s.memRead .tx off := by
  rw [State.programmed_eq]
  exact (performList_program hv rfl rfl).2.2.2 off h

/-- Settles O16: the nineteen steps are the accesses of `programAccesses`, whose history and registers
`performList_program` gives. -/
theorem programCompletes : Obligations.ProgramCompletes := by
  rintro s p0 pC ctrl hv hidle rfl rfl rfl
  obtain ⟨hhistory, -⟩ := performList_program (s := s.programAccepted) hv rfl rfl
  rw [← State.programmed_eq] at hhistory
  refine ⟨s.programAccepted, s.programAccepted.programmed.retire, exec_pllProgram hidle, rfl, run_program rfl rfl rfl,
    ?_, ?_, ?_⟩
  · refine (State.retire_programmed _).trans ?_
    rw [hhistory]
    rfl
  · simp only [State.retire_memRead]
    exact programmed_cells (s := s.programAccepted) hv
  · simp only [State.retire_memRead]
    exact fun off => programmed_other (s := s.programAccepted) hv

end Sys2Proof.Machine
end

section
/-! Unit P (40_pll.md): the lock wait, and PLL.CONFIGURE, which makes the two solves, the register sequence and the lock
wait under one command. -/

namespace Sys2Proof.Machine

/-! The lock wait. -/

/-- Reads of one lock register and then of the other: the oracle's answers, the events and the count follow each other. -/
theorem State.polled_polled (s : State) (m n : Nat) (status : Status) (seqStep : Byte) :
    ({ s.polled 0x16 0x11 m with status := status, pollcnt := 0, seqStep := seqStep } : State).polled 0x17 0x12 n =
      { s.afterAnswers (m + n) with
        status := status
        pollcnt := 0 + n
        seqStep := seqStep
        history := s.history ++ (List.range m).map (fun k => lockEvent s.cfg 0x16 0x11 (s.lockAnswerAt k))
          ++ (List.range n).map (fun k => lockEvent s.cfg 0x17 0x12 (s.lockAnswerAt (m + k))) } := by
  simp only [← lockAnswerAt_afterAnswers, ← afterAnswers_add]
  rfl

/-- The state after a wait in which `m` reads of PRE_PLL_LOCK fail and one reports lock, and then `n` reads of
POST_PLL_LOCK fail and one reports lock (40_pll.md R160, R161). -/
def State.locked (s : State) (m n : Nat) : State :=
  { s.afterAnswers (m + 1 + (n + 1)) with
    status := { s.status with busy := false, done := true, preLocked := true, postLocked := true }
    pollcnt := n
    seqStep := 0
    history := s.history ++ (List.range (m + 1)).map (fun k => lockEvent s.cfg 0x16 0x11 (s.lockAnswerAt k))
      ++ (List.range (n + 1)).map (fun k => lockEvent s.cfg 0x17 0x12 (s.lockAnswerAt (m + 1 + k))) }

/-- 40_pll.md R162: the whole wait, when both registers report lock within the budget. -/
theorem run_lock_wait {s : State} (hb : s.status.busy = true) (hs : s.seqStep = 0x16) (hcount : s.pollcnt = 0)
    (hpre : (0x16 : Byte) ∈ stepList s.cfg s.latch.op) (hpost : (0x17 : Byte) ∈ stepList s.cfg s.latch.op) {m n : Nat}
    (hm : m < s.cfg.nPollMax) (hn : n < s.cfg.nPollMax)
    (hfailPre : ∀ k < m, reportsLock s.cfg (s.lockAnswerAt k) = false)
    (hlockPre : reportsLock s.cfg (s.lockAnswerAt m) = true)
    (hfailPost : ∀ k < n, reportsLock s.cfg (s.lockAnswerAt (m + 1 + k)) = false)
    (hlockPost : reportsLock s.cfg (s.lockAnswerAt (m + 1 + n)) = true) :
    sequencerRun (m + 1 + (n + 1)) s = .next (s.locked m n) := by
  rw [sequencerRun_add _ _ (run_poll_pre hb m hs hpre (by omega) hfailPre hlockPre)]
  have hanswer : ∀ k, (s.polled 0x16 0x11 (m + 1)).lockAnswerAt k = s.lockAnswerAt (m + 1 + k) :=
    lockAnswerAt_afterAnswers s (m + 1)
  have hwait := run_poll_post (s := { s.polled 0x16 0x11 (m + 1) with
    status := { s.status with preLocked := true }, pollcnt := 0, seqStep := 0x17 }) hb n rfl hpost
    (show 0 + n < s.cfg.nPollMax by omega) (fun k hk => (congrArg _ (hanswer k)).trans (hfailPost k hk))
    ((congrArg _ (hanswer n)).trans hlockPost)
  rw [hwait, State.polled_polled]
  simp only [Nat.zero_add, State.locked]

/-- Settles O17: acceptance leaves the engine at the first poll with the count 0, and the wait is `run_lock_wait`. -/
theorem waitlockCompletes : Obligations.WaitlockCompletes := by
  intro s m n _ hidle hm hn hfailPre hlockPre hfailPost hlockPost
  refine ⟨s.waitlockAccepted, exec_pllWaitlock hidle, rfl, ?_⟩
  exact run_lock_wait (s := s.waitlockAccepted) rfl rfl rfl (show (0x16 : Byte) ∈ [0x16, 0x17] by decide)
    (show (0x17 : Byte) ∈ [0x16, 0x17] by decide) hm hn hfailPre hlockPre hfailPost hlockPost

/-! PLL.CONFIGURE. -/

/-- The state after the two solves of PLL.CONFIGURE, standing at the first step of the register sequence. -/
def State.solved (s : State) : State := s.stepSolvePre.stepSolvePost.atStep 0x03

/-- The state after the 21 non-polling steps of PLL.CONFIGURE, standing at the first poll (40_pll.md R165). -/
def State.configured (s : State) : State :=
  { s.solved with tx := s.solved.programmed.tx, history := s.solved.programmed.history, seqStep := 0x16 }

theorem State.atStep_programmed (s : State) (n : Byte) : s.programmed.atStep n =
    { s with tx := s.programmed.tx, history := s.programmed.history, seqStep := n } := by
  rw [State.programmed_frame]
  rfl

theorem run_configure_setup {s : State} (hb : s.status.busy = true) (hop : s.latch.op = 0x05) (hs : s.seqStep = 0x01) :
    sequencerRun 21 s = .next s.configured := by
  have hlist : stepList s.cfg s.latch.op = [0x01, 0x02] ++ (programSteps ++ [0x16, 0x17]) := by rw [hop]; rfl
  have hpre : sequencerTurn s = .next (s.stepSolvePre.atStep 0x02) := by
    rw [turn_solvePre hb hs (by simp [hlist])]
    exact congrArg _ (State.advance_of_following (s := s.stepSolvePre)
      (show following s.seqStep (stepList s.cfg s.latch.op) = _ by rw [hlist, hs]; rfl))
  have hpost : sequencerTurn (s.stepSolvePre.atStep 0x02) = .next s.solved := by
    rw [turn_solvePost (s := s.stepSolvePre.atStep 0x02) hb rfl
      (show _ ∈ stepList s.cfg s.latch.op by simp [hlist])]
    exact congrArg _ (State.advance_of_following (s := (s.stepSolvePre.atStep 0x02).stepSolvePost)
      (show following 0x02 (stepList s.cfg s.latch.op) = _ by rw [hlist]; rfl))
  rw [sequencerRun_succ_of_turn 20 hpre, sequencerRun_succ_of_turn 19 hpost,
    run_program_steps (s := s.solved) [0x01, 0x02] [0x16, 0x17] hb hlist rfl, ← State.programmed_eq]
  exact congrArg _ (State.atStep_programmed s.solved 0x16)

theorem configured_memRead (s : State) (m n off : Nat) :
    (s.configured.locked m n).memRead .tx off = s.solved.programmed.memRead .tx off := by
  rw [State.programmed_frame]
  rfl

/-- Settles O20: the 21 steps lead to the first poll with the registers programmed from the two solves, and the lock wait
reads and writes no other register. -/
theorem configureCompletes : Obligations.ConfigureCompletes := by
  rintro s m n pre post hv hidle hm hn hfailPre hlockPre hfailPost hlockPost rfl rfl
  refine ⟨s.configureAccepted, s.configureAccepted.configured.locked m n, exec_pllConfigure hidle, rfl, ?_, ?_, ?_, ?_⟩
  · rw [sequencerRun_add 21 _ (run_configure_setup rfl rfl rfl)]
    exact run_lock_wait (s := s.configureAccepted.configured) rfl rfl rfl
      (show (0x16 : Byte) ∈ [0x01, 0x02] ++ (programSteps ++ [0x16, 0x17]) by decide)
      (show (0x17 : Byte) ∈ [0x01, 0x02] ++ (programSteps ++ [0x16, 0x17]) by decide)
      hm hn hfailPre hlockPre hfailPost hlockPost
  · rw [solvePre_fracDiv hv, ← postOutOfRange_iff hv]
    rfl
  · simp only [configured_memRead]
    exact programmed_cells (s := s.configureAccepted.solved) hv
  · simp only [configured_memRead]
    exact fun off => programmed_other (s := s.configureAccepted.solved) hv

end Sys2Proof.Machine
end

section
/-! Unit P (40_pll.md R166): PLL.CONFIGURE against its four parts. Up to the first poll the states agree but in CMD and the
latches; and the lock wait reads neither. -/

namespace Sys2Proof.Machine

/-! The lock wait reads neither CMD nor the latches. -/

/-- The state with another CMD and other latches. -/
def State.withCommand (s : State) (cmd : Word) (latch : Latches) : State := { s with cmd := cmd, latch := latch }

theorem lockReadLogged_withCommand (s : State) (cmd : Word) (latch : Latches) (n : Nat) :
    (s.withCommand cmd latch).lockReadLogged n = (s.lockReadLogged n).withCommand cmd latch := by
  simp only [State.lockReadLogged, lockAnswered_eq]
  rfl

theorem pollFailed_withCommand (s : State) (cmd : Word) (latch : Latches) (c : Cause) :
    (s.withCommand cmd latch).pollFailed c = (s.pollFailed c).withCommand cmd latch := by
  have hraise (t : State) : (t.withCommand cmd latch).raise c = (t.raise c).withCommand cmd latch := by cases c <;> rfl
  unfold State.pollFailed
  simp only [apply_ite (State.withCommand · cmd latch), ← hraise]
  rfl

theorem stepPollPre_withCommand (s : State) (cmd : Word) (latch : Latches) :
    (s.withCommand cmd latch).stepPollPre = s.stepPollPre.withCommand cmd latch := by
  unfold State.stepPollPre
  simp only [lockReadLogged_withCommand, pollFailed_withCommand, apply_ite (State.withCommand · cmd latch)]
  rfl

theorem stepPollPost_withCommand (s : State) (cmd : Word) (latch : Latches) :
    (s.withCommand cmd latch).stepPollPost = s.stepPollPost.withCommand cmd latch := by
  unfold State.stepPollPost
  simp only [lockReadLogged_withCommand, pollFailed_withCommand, apply_ite (State.withCommand · cmd latch)]
  rfl

/-- A turn of a sequencer that is in the lock wait, or idle after it. -/
def State.pollTurn (s : State) : State :=
  if s.status.busy then (if s.seqStep = 0x16 then s.stepPollPre else s.stepPollPost) else s

theorem pollTurn_withCommand (s : State) (cmd : Word) (latch : Latches) :
    (s.withCommand cmd latch).pollTurn = s.pollTurn.withCommand cmd latch := by
  unfold State.pollTurn
  rw [stepPollPre_withCommand, stepPollPost_withCommand, apply_ite (State.withCommand · cmd latch),
    apply_ite (State.withCommand · cmd latch)]
  rfl

/-- The command is one that waits for lock, and while BUSY the step is a poll. -/
def State.InLockWait (s : State) : Prop :=
  (s.latch.op = 0x04 ∨ s.latch.op = 0x05) ∧ (s.status.busy = true → s.seqStep = 0x16 ∨ s.seqStep = 0x17)

theorem sequencerTurn_of_inLockWait {s : State} (h : s.InLockWait) : sequencerTurn s = .next s.pollTurn := by
  obtain ⟨hop, hstep⟩ := h
  cases hb : s.status.busy with
  | false => simp [State.pollTurn, hb, sequencerTurn_of_idle]
  | true =>
    have hpre : (0x16 : Byte) ∈ stepList s.cfg s.latch.op := by rcases hop with hop | hop <;> simp [hop, stepList]
    have hpost : (0x17 : Byte) ∈ stepList s.cfg s.latch.op := by rcases hop with hop | hop <;> simp [hop, stepList]
    rcases hstep hb with hs | hs
    · simp [State.pollTurn, hb, hs, turn_pollPre hb hs hpre]
    · simp [State.pollTurn, hb, hs, turn_pollPost hb hs hpost]

/-- A failed poll ends the command or stays at its step. -/
theorem pollFailed_seqStep {s : State} {c : Cause} (hc : c.atIssue = false) (h : (s.pollFailed c).status.busy = true) :
    (s.pollFailed c).seqStep = s.seqStep := by
  rcases State.pollFailed_cases s c with e | e <;> rw [e] at h ⊢
  obtain ⟨-, hidle, -⟩ := State.raise_of_sequencer hc { s with pollcnt := s.pollcnt + 1 }
  rw [hidle] at h
  cases h

theorem State.InLockWait.pollTurn {s : State} (h : s.InLockWait) : s.pollTurn.InLockWait := by
  obtain ⟨hop, hstep⟩ := h
  unfold State.pollTurn
  split_ifs with hb hs
  · refine ⟨by rwa [State.stepPollPre_latch], ?_⟩
    unfold State.stepPollPre
    simp only
    split
    · exact fun _ => .inr rfl
    · intro h
      rw [pollFailed_seqStep rfl h, State.lockReadLogged_seqStep]
      exact .inl hs
  · refine ⟨by rwa [State.stepPollPost_latch], ?_⟩
    unfold State.stepPollPost
    simp only
    split
    · exact nofun
    · intro h
      rw [pollFailed_seqStep rfl h, State.lockReadLogged_seqStep]
      exact hstep hb
  · exact ⟨hop, hstep⟩

theorem sequencerRun_of_inLockWait {s : State} (n : Nat) (h : s.InLockWait) :
    sequencerRun n s = .next (State.pollTurn^[n] s) := by
  induction n generalizing s with
  | zero => rfl
  | succ n ih => rw [sequencerRun_succ_of_turn n (sequencerTurn_of_inLockWait h), ih h.pollTurn, Function.iterate_succ_apply]

theorem iterate_pollTurn_withCommand (n : Nat) (s : State) (cmd : Word) (latch : Latches) :
    State.pollTurn^[n] (s.withCommand cmd latch) = (State.pollTurn^[n] s).withCommand cmd latch :=
  (Function.Semiconj.iterate_right (f := (State.withCommand · cmd latch))
    (fun t => (pollTurn_withCommand t cmd latch).symm) n s).symm

/-! The states before the wait. -/

theorem commandRun_of_exec {i : Instr} {n : Nat} {s t : State} (h : exec i s = .next t) :
    commandRun i n s = sequencerRun n t := by
  rw [commandRun, h]

/-- The register sequence reads the results, the HDMI block and the history, and neither CMD nor the latches. -/
theorem programmed_congr {s t : State} (hcfg : s.cfg = t.cfg) (hpre : s.pre = t.pre) (hpost : s.post = t.post)
    (htx : s.tx = t.tx) (hdc : s.dc = t.dc) (hhistory : s.history = t.history) (hepoch : s.epoch = t.epoch) :
    s.programmed.tx = t.programmed.tx ∧ s.programmed.history = t.programmed.history := by
  have haccesses : programAccesses s = programAccesses t := by
    simp only [programAccesses, programWritesA, programWritesB, hcfg, hpre, hpost]
  rw [State.programmed_eq, State.programmed_eq, haccesses]
  exact performList_congr _ hcfg htx hdc hhistory hepoch

/-- The state after PLL.SOLVEPRE and PLL.SOLVEPOST, each run to its end. -/
def State.solvedInParts (s : State) : State :=
  s.solvePreAccepted.stepSolvePre.retire.solvePostAccepted.stepSolvePost.retire

/-- At the first poll the four parts have done what PLL.CONFIGURE has done. -/
theorem parts_before_wait (s : State) :
    s.solvedInParts.programAccepted.programmed.retire.waitlockAccepted =
      s.configureAccepted.configured.withCommand 0x00000004 (s.snapshot 0x04 0) := by
  obtain ⟨htx, hhistory⟩ := programmed_congr (s := s.solvedInParts.programAccepted) (t := s.configureAccepted.solved)
    rfl rfl rfl rfl rfl rfl rfl
  rw [State.retire_programmed, htx, hhistory]
  rfl

/-- Settles O21: from the first poll on, the two runs are the same turns of the lock wait. -/
theorem configureEqualsItsParts : Obligations.ConfigureEqualsItsParts := by
  intro s n hidle
  have hwhole : s.configureAccepted.configured.InLockWait := ⟨.inr rfl, fun _ => .inl rfl⟩
  have hparts : (s.configureAccepted.configured.withCommand 0x00000004 (s.snapshot 0x04 0)).InLockWait :=
    ⟨.inl rfl, fun _ => .inl rfl⟩
  refine ⟨s.solvePreAccepted.stepSolvePre.retire, s.solvedInParts, s.solvedInParts.programAccepted.programmed.retire,
    (State.pollTurn^[n] s.configureAccepted.configured).withCommand 0x00000004 (s.snapshot 0x04 0),
    State.pollTurn^[n] s.configureAccepted.configured, ?_, ?_, ?_, ?_, ?_, rfl⟩
  · rw [commandRun_of_exec (exec_pllSolvepre hidle), run_solvePre rfl rfl rfl]
  · rw [commandRun_of_exec (exec_pllSolvepost rfl), run_solvePost rfl rfl rfl]
    rfl
  · rw [commandRun_of_exec (exec_pllProgram rfl), run_program rfl rfl rfl]
  · rw [commandRun_of_exec (exec_pllWaitlock rfl), parts_before_wait, sequencerRun_of_inLockWait n hparts,
      iterate_pollTurn_withCommand]
  · rw [commandRun_of_exec (exec_pllConfigure hidle), sequencerRun_add 21 n (run_configure_setup rfl rfl rfl),
      sequencerRun_of_inLockWait n hwhole]

end Sys2Proof.Machine
end

section
/-! Unit T (41_timing.md): the acceptance of its two commands, the registers they write, and each command as a whole. -/

namespace Sys2Proof.Machine

/-! A command whose every step is a register step. -/

/-- The run of the whole step list performs its accesses and retires. -/
theorem run_register_command {s : State} {l : List (Byte × Access)} (hb : s.status.busy = true)
    (hl : stepList s.cfg s.latch.op = l.map Prod.fst) (hs : (l.map Prod.fst).head? = some s.seqStep)
    (ha : ∀ x ∈ l, isRegisterStep x.1 = true ∧ stepAccess (s.atStep x.1) = some x.2) :
    sequencerRun l.length s = .next (s.performList l).retire :=
  run_registers (p := []) (q := []) hb (by simpa using hl) (stepList_nodup _ _) ha hs

theorem State.retire_performList (s : State) (l : List (Byte × Access)) : (s.performList l).retire = { s with
    status := { s.status with busy := false, done := true }
    seqStep := 0
    tx := (s.performList l).tx
    dc := (s.performList l).dc
    history := (s.performList l).history } := by
  rw [State.performList_frame]
  rfl

/-! VT.TX: acceptance and the bytes written. -/

/-- The acceptance of VT.TX, 41_timing.md R181: step 0x20. -/
def State.vtTxAccepted (s : State) : State :=
  { s with
    cmd := 0x00000010
    latch := s.snapshot 0x10 0
    status := { s.status with busy := true, done := false, fail := false }
    seqStep := 0x20 }

theorem exec_vtTx {s : State} (h : s.status.busy = false) : exec .vtTx s = .next s.vtTxAccepted :=
  State.issue_of_idle h _

/-- The bytes VT.TX writes: logical register, payload (41_timing.md R182 to R186). -/
def timingCells (c : Config) (m : Mode) : List (Nat × Byte) :=
  (0x20, timingCtlByte c m) :: (fieldBytes c.txWidth.htotal 0x21 0x22 (extHtotal m)
    ++ fieldBytes c.txWidth.hblank 0x23 0x24 (extHblank m) ++ fieldBytes c.txWidth.hdelay 0x25 0x26 (extHdelay c m)
    ++ fieldBytes c.txWidth.hduration 0x27 0x28 (extHduration m) ++ fieldBytes c.txWidth.vtotal 0x29 0x2A (extVtotal m)
    ++ fieldBytes c.txWidth.vblank 0x2B 0x1D (extVblank m) ++ fieldBytes c.txWidth.vdelay 0x2C 0x1E (extVdelay c m)
    ++ fieldBytes c.txWidth.vduration 0x2D 0x1F (extVduration m))

/-- The same bytes as writes of the sequencer: the step number is the register number (30_encoding.md R110). -/
def timingWrites (c : Config) (m : Mode) : List (Byte × Nat × Byte) :=
  (timingCells c m).map fun cell => (BitVec.ofNat 8 cell.1, cell)

theorem fieldBytes_steps (width : FieldWidth) (low high : Nat) (v : Half) :
    (fieldBytes width low high v).map (fun cell => BitVec.ofNat 8 cell.1) =
      fieldSteps width (BitVec.ofNat 8 low) (BitVec.ofNat 8 high) := by
  cases width <;> rfl

theorem forall_mem_fieldBytes {P : Nat × Byte → Prop} {low high : Nat} {v : Half} (hlow : P (low, lowByte v))
    (hhigh : P (high, highByte v)) (width : FieldWidth) : ∀ cell ∈ fieldBytes width low high v, P cell := by
  cases width with
  | byte => exact List.forall_mem_singleton.2 hlow
  | pair => exact List.forall_mem_cons.2 ⟨hlow, List.forall_mem_singleton.2 hhigh⟩

theorem timingWrites_steps (c : Config) (m : Mode) : (timingWrites c m).map Prod.fst = timingSteps c := by
  simp only [timingWrites, timingCells, List.map_map, Function.comp_def, List.map_cons, List.map_append,
    fieldBytes_steps]
  rfl

/-- A write of VT.TX is the access of its step, whose number is that of the register. -/
theorem stepAccess_of_mem_timingCells (s : State) : ∀ cell ∈ timingCells s.cfg s.latch.mode,
    isRegisterStep (BitVec.ofNat 8 cell.1) = true ∧ (BitVec.ofNat 8 cell.1).toNat = cell.1 ∧
      stepAccess (s.atStep (BitVec.ofNat 8 cell.1)) = some (.txWrite cell.1 cell.2) := by
  simp only [timingCells, List.forall_mem_cons, List.forall_mem_append]
  refine ⟨⟨rfl, rfl, rfl⟩, ⟨⟨⟨⟨⟨⟨?_, ?_⟩, ?_⟩, ?_⟩, ?_⟩, ?_⟩, ?_⟩, ?_⟩
  all_goals exact forall_mem_fieldBytes ⟨rfl, rfl, rfl⟩ ⟨rfl, rfl, rfl⟩ _

theorem timingCells_registers (s : State) :
    (timingCells s.cfg s.latch.mode).map Prod.fst = (timingSteps s.cfg).map BitVec.toNat := by
  rw [← timingWrites_steps s.cfg s.latch.mode, timingWrites, List.map_map, List.map_map]
  refine List.map_congr_left fun cell hcell => ?_
  obtain ⟨-, hregister, -⟩ := stepAccess_of_mem_timingCells s cell hcell
  exact hregister.symm

/-- The registers of the bytes are registers of the HDMI block, which have distinct offsets. -/
theorem timingCells_offsets_nodup {s : State} (hv : configValid s.cfg = true) :
    ((timingCells s.cfg s.latch.mode).map fun cell => txByteOffset s.cfg cell.1).Nodup := by
  obtain ⟨hoffsets, -⟩ := (txMapOk_iff s.cfg).1 ((configValid_iff s.cfg).1 hv).2.2.2.1
  rw [txOffsets, txRegisters, List.map_append, ← timingCells_registers, List.map_map] at hoffsets
  exact hoffsets.of_append_right

/-! VT.TX: the whole command. -/

/-- The state after the steps of VT.TX, retired. -/
def State.vtTxDone (s : State) : State := (s.performList (txSteps (timingWrites s.cfg s.latch.mode))).retire

theorem run_vtTx {s : State} (hb : s.status.busy = true) (hop : s.latch.op = 0x10) (hs : s.seqStep = 0x20) :
    sequencerRun (timingCells s.cfg s.latch.mode).length s = .next s.vtTxDone := by
  have hlist : stepList s.cfg s.latch.op = (txSteps (timingWrites s.cfg s.latch.mode)).map Prod.fst := by
    rw [hop, txSteps, List.map_map]
    exact (timingWrites_steps s.cfg s.latch.mode).symm
  have hlength : (timingCells s.cfg s.latch.mode).length = (txSteps (timingWrites s.cfg s.latch.mode)).length := by
    simp only [txSteps, timingWrites, List.length_map]
  rw [hlength]
  refine run_register_command hb hlist (by rw [hs]; rfl) ?_
  simp only [txSteps, timingWrites, List.forall_mem_map]
  intro cell hcell
  obtain ⟨hregister, -, haccess⟩ := stepAccess_of_mem_timingCells s cell hcell
  exact ⟨hregister, haccess⟩

/-- VT.TX writes the HDMI block and the history. -/
theorem State.vtTxDone_eq (s : State) : s.vtTxDone = { s with
    status := { s.status with busy := false, done := true }
    seqStep := 0
    tx := s.vtTxDone.tx
    history := s.history ++ (timingCells s.cfg s.latch.mode).map fun cell =>
      txWriteEvent s.cfg (BitVec.ofNat 8 cell.1) cell.1 cell.2 } := by
  have hhistory := performList_txSteps_history s (timingWrites s.cfg s.latch.mode)
  rw [timingWrites, List.map_map] at hhistory
  refine (State.retire_performList _ _).trans ?_
  rw [performList_txSteps_dc, timingWrites, hhistory]
  rfl

/-- 41_timing.md R185, R186. -/
theorem vtTxDone_cells {s : State} (hv : configValid s.cfg = true) : ∀ cell ∈ timingCells s.cfg s.latch.mode,
    s.vtTxDone.memRead .tx (txByteOffset s.cfg cell.1) = cell.2.setWidth 32 := by
  intro cell hcell
  rw [State.vtTxDone, State.retire_memRead]
  exact performList_txSteps_same s _ (by simpa [timingWrites, Function.comp_def] using timingCells_offsets_nodup hv)
    _ (List.mem_map_of_mem hcell)

theorem vtTxDone_other {s : State} {off : Nat}
    (h : ∀ cell ∈ timingCells s.cfg s.latch.mode, off ≠ txByteOffset s.cfg cell.1) :
    s.vtTxDone.memRead .tx off = s.memRead .tx off := by
  rw [State.vtTxDone, State.retire_memRead]
  exact performList_txSteps_other s _ off (List.forall_mem_map.2 h)

/-- Settles O23: the bytes of the statement are `timingCells` of the latched mode, which the steps of the command write
one by one. -/
theorem timingTxCompletes : Obligations.TimingTxCompletes := by
  rintro s m w tctl hdelay vdelay bytes hv hidle rfl rfl rfl rfl rfl hbytes
  have hcells : bytes = timingCells s.vtTxAccepted.cfg s.vtTxAccepted.latch.mode := hbytes
  subst hcells
  exact ⟨s.vtTxAccepted, s.vtTxAccepted.vtTxDone, exec_vtTx hidle, rfl, run_vtTx rfl rfl rfl, State.vtTxDone_eq _,
    vtTxDone_cells (s := s.vtTxAccepted) hv, fun _ => vtTxDone_other (s := s.vtTxAccepted)⟩

/-! VT.DC: acceptance and the words written. -/

/-- The acceptance of VT.DC, 41_timing.md R192: step 0x30. -/
def State.vtDcAccepted (s : State) (panel : Byte) : State :=
  { s with
    cmd := 0x00000011#32 ||| (panel.setWidth 32 <<< 8)
    latch := s.snapshot 0x11 panel
    status := { s.status with busy := true, done := false, fail := false }
    seqStep := 0x30 }

theorem exec_vtDc {s : State} {panel : Byte} (h : s.status.busy = false) (hpanel : panel.toNat < s.cfg.consts.nPanel) :
    exec (.vtDc panel) s = .next (s.vtDcAccepted panel) := by
  obtain ⟨hop, hsel, -⟩ := Laws.EncodeFields.vtDc panel
  have hlatch : latchInputs (encode (.vtDc panel)) s = s.snapshot 0x11 panel := by
    rw [fieldOp] at hop
    rw [fieldSel] at hsel
    rw [latchInputs, hop, hsel]
    rfl
  refine (State.issue_of_idle h _).trans ?_
  rw [if_pos hpanel, State.accept, hlatch]
  rfl

/-- The words VT.DC writes for panel `p`: step, byte offset, word (41_timing.md R195). -/
def panelWrites (c : Config) (m : Mode) (p : Nat) : List (Byte × Nat × Word) :=
  [ (0x30, timingOffset c 0 p, lengthWord c.dcLayout m.hdisplay m.htotal),
    (0x31, timingOffset c 1 p, syncWord c.dcLayout m.hsyncStart m.hsyncEnd m.phsync),
    (0x32, timingOffset c 2 p, lengthWord c.dcLayout m.vdisplay m.vtotal),
    (0x33, timingOffset c 3 p, syncWord c.dcLayout m.vsyncStart m.vsyncEnd m.pvsync) ]

/-- The four words of a panel are among the eight timing words, which have distinct offsets. -/
theorem panelWrites_offsets_nodup {c : Config} (hv : configValid c = true) (m : Mode) {p : Nat} (hp : p < 2) :
    ((panelWrites c m p).map fun x => x.2.1).Nodup := by
  have hall : ((panelWrites c m 0).map (fun x => x.2.1) ++ (panelWrites c m 1).map (fun x => x.2.1)).Nodup :=
    timingOffsets_nodup hv
  interval_cases p
  · exact hall.of_append_left
  · exact hall.of_append_right

/-! VT.DC: the whole command. -/

/-- The state after the four steps of VT.DC, retired. -/
def State.vtDcDone (s : State) : State :=
  (s.performList (dcSteps (panelWrites s.cfg s.latch.mode s.latch.sel.toNat))).retire

theorem run_vtDc {s : State} (hb : s.status.busy = true) (hop : s.latch.op = 0x11) (hs : s.seqStep = 0x30) :
    sequencerRun 4 s = .next s.vtDcDone := by
  refine run_register_command (l := dcSteps (panelWrites s.cfg s.latch.mode s.latch.sel.toNat)) hb (by rw [hop]; rfl)
    (by rw [hs]; rfl) ?_
  simp only [dcSteps, List.forall_mem_map, panelWrites, List.forall_mem_cons]
  exact ⟨⟨rfl, rfl⟩, ⟨rfl, rfl⟩, ⟨rfl, rfl⟩, ⟨rfl, rfl⟩, nofun⟩

/-- VT.DC writes the display controller and the history. -/
theorem State.vtDcDone_eq (s : State) : s.vtDcDone = { s with
    status := { s.status with busy := false, done := true }
    seqStep := 0
    dc := s.vtDcDone.dc
    history := s.history ++ (panelWrites s.cfg s.latch.mode s.latch.sel.toNat).map fun x =>
      dcWriteEvent s.cfg x.1 x.2.1 x.2.2 } := by
  refine (State.retire_performList _ _).trans ?_
  rw [performList_dcSteps_tx, performList_dcSteps_history]
  rfl

theorem vtDcDone_words {s : State} (hv : configValid s.cfg = true) (hpanel : s.latch.sel.toNat < 2) :
    ∀ x ∈ panelWrites s.cfg s.latch.mode s.latch.sel.toNat, s.vtDcDone.memRead .dc x.2.1 = x.2.2 := by
  simp only [State.vtDcDone, State.retire_memRead]
  exact performList_dcSteps_same s _ (panelWrites_offsets_nodup hv _ hpanel)

theorem vtDcDone_other {s : State} {off : Nat}
    (h : ∀ x ∈ panelWrites s.cfg s.latch.mode s.latch.sel.toNat, off ≠ x.2.1) :
    s.vtDcDone.memRead .dc off = s.memRead .dc off := by
  rw [State.vtDcDone, State.retire_memRead]
  exact performList_dcSteps_other s _ off h

/-- Settles O26: the words of the statement are `panelWrites` of the latched mode and panel, under the numbers of their
steps. -/
theorem timingDcCompletes : Obligations.TimingDcCompletes := by
  rintro s panel m l words hv hidle hpanel rfl rfl hwords
  have hwrites : words.map (fun c => (BitVec.ofNat 8 c.1, c.2)) = panelWrites (s.vtDcAccepted panel).cfg
      (s.vtDcAccepted panel).latch.mode (s.vtDcAccepted panel).latch.sel.toNat := by
    rw [hwords]
    rfl
  have haccepted : panel.toNat < s.cfg.consts.nPanel := by rwa [(counts_of_valid hv).1]
  refine ⟨s.vtDcAccepted panel, (s.vtDcAccepted panel).vtDcDone, exec_vtDc hidle haccepted, rfl, run_vtDc rfl rfl rfl,
    ?_, ?_, ?_⟩
  · refine (State.vtDcDone_eq _).trans ?_
    rw [← hwrites, List.map_map]
    rfl
  · have hread := vtDcDone_words (s := s.vtDcAccepted panel) hv hpanel
    rwa [← hwrites, List.forall_mem_map] at hread
  · intro off hoff
    refine vtDcDone_other (s := s.vtDcAccepted panel) ?_
    rwa [← hwrites, List.forall_mem_map]

end Sys2Proof.Machine
end

section
/-! Unit C (42_colour.md): the acceptance of its two commands, step 0x40, and the coefficient registers that
CSC.LOAD writes. -/

namespace Sys2Proof.Machine

/-! Acceptance. -/

/-- Acceptance latches the OP and the SEL of the command, and the inputs as they stand (10_state.md R35). -/
theorem latchInputs_encode (i : Instr) (s : State) : latchInputs (encode i) s = s.snapshot i.opcode i.sel := by
  obtain ⟨hop, hsel, -⟩ := Laws.EncodeFields.fields_of_word i.opcode i.sel
  exact congrArg₂ s.snapshot hop hsel

/-- The acceptance of CSC.MAPFMT, 42_colour.md R211: step 0x40. -/
def State.mapFmtAccepted (s : State) : State :=
  { s with
    cmd := 0x00000020
    latch := s.snapshot 0x20 0
    status := { s.status with busy := true, done := false, fail := false }
    seqStep := 0x40 }

theorem exec_cscMapfmt {s : State} (h : s.status.busy = false) : exec .cscMapfmt s = .next s.mapFmtAccepted :=
  State.issue_of_idle h _

/-- The acceptance of CSC.LOAD, 42_colour.md R218: step 0x40. -/
def State.loadAccepted (s : State) (slot : Byte) : State :=
  { s with
    cmd := 0x00000021#32 ||| (slot.setWidth 32 <<< 8)
    latch := s.snapshot 0x21 slot
    status := { s.status with busy := true, done := false, fail := false }
    seqStep := 0x40 }

theorem exec_cscLoad {s : State} {slot : Byte} (hv : configValid s.cfg = true) (h : s.status.busy = false)
    (hslot : slot.toNat < 6) : exec (.cscLoad slot) s = .next (s.loadAccepted slot) := by
  obtain ⟨-, hlayers, -⟩ := counts_of_valid hv
  refine (State.issue_of_idle h _).trans ?_
  rw [if_pos (by rwa [hlayers]), State.accept, latchInputs_encode]
  rfl

/-! Step 0x40 (42_colour.md R214 to R219). -/

theorem lookupFormat_eq_find? (rows : List FmtRow) (key : Word) :
    lookupFormat rows key = rows.find? fun x => decide (x.key = key) := by
  induction rows with
  | nil => rfl
  | cons row rest ih =>
    rw [lookupFormat, ih, List.find?_cons]
    by_cases h : row.key = key <;> simp [h]

theorem run_mapFmt {s : State} (hb : s.status.busy = true) (hop : s.latch.op = 0x20 ∨ s.latch.op = 0x21)
    (hs : s.seqStep = 0x40) : sequencerRun 1 s = .next s.stepMapFmt := by
  have hmem : (0x40 : Byte) ∈ stepList s.cfg s.latch.op := by
    rcases hop with hop | hop <;> rw [hop] <;> exact List.mem_cons_self
  rw [sequencerRun_succ_of_turn 0 (turn_mapFmt hb hs hmem), sequencerRun_zero]

/-- The state with the CSC_RESULT of a row of FMT_MAP (42_colour.md R214). -/
def State.formatMapped (s : State) (row : FmtRow) : State := { s with cscResult := mapResult s.cfg row s.latch.enc }

theorem stepMapFmt_of_unmapped {s : State} (h : lookupFormat s.cfg.fmtMap s.latch.fmt = none) :
    s.stepMapFmt = ({ s with cscResult := CscResult.reset } : State).raise .badFormat := by
  rw [State.stepMapFmt, h]

theorem stepMapFmt_of_mapfmt {s : State} {row : FmtRow} (h : lookupFormat s.cfg.fmtMap s.latch.fmt = some row)
    (hop : s.latch.op = 0x20) : s.stepMapFmt = (s.formatMapped row).retire := by
  simp [State.stepMapFmt, State.formatMapped, h, hop]

theorem stepMapFmt_of_load_rgb {s : State} {row : FmtRow} (h : lookupFormat s.cfg.fmtMap s.latch.fmt = some row)
    (hop : s.latch.op = 0x21) (hrgb : row.isYuv = false) :
    s.stepMapFmt = ((s.formatMapped row).drawRgbBank s.latch.sel.toNat).retire := by
  simp [State.stepMapFmt, State.formatMapped, h, hop, hrgb]

theorem stepMapFmt_of_load_yuv {s : State} {row : FmtRow} (h : lookupFormat s.cfg.fmtMap s.latch.fmt = some row)
    (hop : s.latch.op = 0x21) (hyuv : row.isYuv = true) :
    s.stepMapFmt = (s.formatMapped row).atStep 0x41 := by
  simp [State.stepMapFmt, State.formatMapped, State.atStep, h, hop, hyuv]

/-- Encoding 0 is 601, as is an encoding that is not recognised (42_colour.md R216). -/
theorem tableSelect_eq (isYuv : Bool) (enc : Word) : tableSelect isYuv enc =
    if isYuv then (if enc = 0 then 0 else if enc = 1 then 1 else if enc = 2 then 2 else 0) else 3 := by
  by_cases h : enc = 0
  · subst h
    rfl
  · rw [if_neg h]
    rfl

theorem run_unmapped {s : State} (hb : s.status.busy = true) (hop : s.latch.op = 0x20 ∨ s.latch.op = 0x21)
    (hs : s.seqStep = 0x40) (h : s.cfg.fmtMap.find? (fun x => decide (x.key = s.latch.fmt)) = none) :
    sequencerRun 1 s = .next (({ s with cscResult := CscResult.reset } : State).raise .badFormat) := by
  rw [run_mapFmt hb hop hs, stepMapFmt_of_unmapped (by rwa [lookupFormat_eq_find?])]

/-- Settles O29: the one step of CSC.MAPFMT is step 0x40, which retires for a mapped format. -/
theorem mapFormatCompletes : Obligations.MapFormatCompletes := by
  intro s row hidle hrow
  refine ⟨s.mapFmtAccepted, exec_cscMapfmt hidle, rfl, ?_⟩
  rw [run_mapFmt rfl (.inl rfl) rfl,
    stepMapFmt_of_mapfmt (s := s.mapFmtAccepted) ((lookupFormat_eq_find? _ _).trans hrow) rfl, ← tableSelect_eq]
  rfl

/-- Settles O30: both commands stand at step 0x40 when accepted, and the step raises BadFormat. -/
theorem unknownFormatFaults : Obligations.UnknownFormatFaults := by
  rintro s t i hv hidle (rfl | ⟨slot, hslot, rfl⟩) hnone hexec
  · cases (exec_cscMapfmt hidle).symm.trans hexec
    exact run_unmapped (s := s.mapFmtAccepted) rfl (.inl rfl) rfl hnone
  · cases (exec_cscLoad hv hidle hslot).symm.trans hexec
    exact run_unmapped (s := s.loadAccepted slot) rfl (.inr rfl) rfl hnone

/-- Settles O32: the one step is step 0x40, which draws the bank of the latched slot and retires. -/
theorem loadRgbWritesNoCoefficient : Obligations.LoadRgbWritesNoCoefficient := by
  intro s slot row hv hidle hslot hrow hrgb
  refine ⟨s.loadAccepted slot, (((s.loadAccepted slot).formatMapped row).drawRgbBank slot.toNat).retire,
    exec_cscLoad hv hidle hslot, rfl, ?_, ?_, ?_⟩
  · rw [run_mapFmt rfl (.inr rfl) rfl,
      stepMapFmt_of_load_rgb (s := s.loadAccepted slot) ((lookupFormat_eq_find? _ _).trans hrow) rfl hrgb]
    rfl
  · rw [State.formatMapped, mapResult, hrgb]
    rfl
  · intro k hk
    exact List.getElem?_modify_ne _ _ hk.symm

/-! The coefficient registers (42_colour.md R220 to R222). -/

theorem lanePair_eq_append (a b : Word) : lanePair a b = b.setWidth 16 ++ a.setWidth 16 := by
  rw [lanePair, BitVec.or_comm, BitVec.append_def]
  simp [BitVec.shiftLeftZeroExtend_eq]

theorem coefOffset_eq (c : Config) (slot : Nat) {k : Nat} (hk : k < 10) :
    coefOffset c slot k = (if slot < 2 then c.coefPrimary else c.coefOverlay)[k] + c.planeOff[slot]?.getD 0 := by
  by_cases h : slot < 2 <;> simp [coefOffset, slotKind, coefKindOffset, planeOffset, h, hk]

/-- For a YUV format a table is chosen, by the encoding. -/
theorem y2rTable_tableSelect (c : Config) (enc : Word) : y2rTable c (tableSelect true enc) =
    some (if enc = 1 then c.y2r709 else if enc = 2 then c.y2r2020 else c.y2r601) := by
  rw [tableSelect, if_pos rfl]
  split_ifs <;> rfl

/-- The writes of steps 0x41 to 0x4A for a slot and a table: step, byte offset, word (42_colour.md R220). -/
def coefWrites (c : Config) (slot : Nat) (tab : Vector Word 16) : List (Byte × Nat × Word) :=
  (List.range 10).map fun k => (BitVec.ofNat 8 (0x41 + k), coefOffset c slot k, coefWord tab k)

/-- Every coefficient step is a register step, whose access is that of unit C. -/
theorem stepAccess_of_coefStep (s : State) {k : Nat} (hk : k < 10) :
    isRegisterStep (BitVec.ofNat 8 (0x41 + k)) = true ∧ stepAccess (s.atStep (BitVec.ofNat 8 (0x41 + k))) =
      coefAccess s.cfg s.cscResult.tableSel s.latch.sel.toNat (0x41 + k) := by
  interval_cases k <;> exact ⟨rfl, rfl⟩

theorem coefAccess_of_table {c : Config} {sel : BitVec 2} {tab : Vector Word 16} (h : y2rTable c sel = some tab)
    (slot : Nat) {k : Nat} (hk : k < 10) :
    coefAccess c sel slot (0x41 + k) = some (.dcWrite (coefOffset c slot k) (coefWord tab k)) := by
  rw [coefAccess, if_pos (by omega), h, Nat.add_sub_cancel_left]
  rfl

/-- The state after the ten coefficient steps, retired. -/
def State.coefLoaded (s : State) (tab : Vector Word 16) : State :=
  (s.performList (dcSteps (coefWrites s.cfg s.latch.sel.toNat tab))).retire

theorem run_coefSteps {s : State} {tab : Vector Word 16} (hb : s.status.busy = true) (hop : s.latch.op = 0x21)
    (hs : s.seqStep = 0x41) (htab : y2rTable s.cfg s.cscResult.tableSel = some tab) :
    sequencerRun 10 s = .next (s.coefLoaded tab) := by
  refine run_registers (l := dcSteps (coefWrites s.cfg s.latch.sel.toNat tab)) (p := [0x40]) (q := []) hb
    (by rw [hop]; rfl) (stepList_nodup _ _) ?_ (by rw [hs]; rfl)
  simp only [dcSteps, coefWrites, List.forall_mem_map, List.mem_range]
  intro k hk
  obtain ⟨hregister, haccess⟩ := stepAccess_of_coefStep s hk
  exact ⟨hregister, haccess.trans (coefAccess_of_table htab _ hk)⟩

/-- The coefficient steps write the display controller and the history. -/
theorem State.coefLoaded_eq (s : State) (tab : Vector Word 16) : s.coefLoaded tab = { s with
    status := { s.status with busy := false, done := true }
    seqStep := 0
    dc := (s.coefLoaded tab).dc
    history := s.history ++ (coefWrites s.cfg s.latch.sel.toNat tab).map fun x =>
      dcWriteEvent s.cfg x.1 x.2.1 x.2.2 } := by
  refine (State.retire_performList _ _).trans ?_
  rw [performList_dcSteps_tx, performList_dcSteps_history]
  rfl

theorem coefLoaded_words {s : State} (hv : configValid s.cfg = true) (hslot : s.latch.sel.toNat < 6)
    (tab : Vector Word 16) :
    ∀ x ∈ coefWrites s.cfg s.latch.sel.toNat tab, (s.coefLoaded tab).memRead .dc x.2.1 = x.2.2 := by
  simp only [State.coefLoaded, State.retire_memRead]
  exact performList_dcSteps_same s _ (bankOffsets_nodup hv hslot)

theorem coefLoaded_other {s : State} {tab : Vector Word 16} {off : Nat}
    (h : ∀ x ∈ coefWrites s.cfg s.latch.sel.toNat tab, off ≠ x.2.1) :
    (s.coefLoaded tab).memRead .dc off = s.memRead .dc off := by
  rw [State.coefLoaded, State.retire_memRead]
  exact performList_dcSteps_other s _ off h

/-- The state in which CSC.LOAD of a YUV format begins its coefficient steps. -/
def State.loadMapped (s : State) (slot : Byte) (row : FmtRow) : State :=
  ((s.loadAccepted slot).formatMapped row).atStep 0x41

theorem run_load_yuv {s : State} {slot : Byte} {row : FmtRow}
    (hrow : s.cfg.fmtMap.find? (fun x => decide (x.key = s.cscFormat)) = some row) (hyuv : row.isYuv = true) :
    sequencerRun 11 (s.loadAccepted slot) = .next ((s.loadMapped slot row).coefLoaded
      (if s.cscEncoding = 1 then s.cfg.y2r709 else if s.cscEncoding = 2 then s.cfg.y2r2020 else s.cfg.y2r601)) := by
  have hmap : sequencerRun 1 (s.loadAccepted slot) = .next (s.loadMapped slot row) := by
    rw [run_mapFmt rfl (.inr rfl) rfl,
      stepMapFmt_of_load_yuv (s := s.loadAccepted slot) ((lookupFormat_eq_find? _ _).trans hrow) rfl hyuv]
    rfl
  have hsel : (s.loadMapped slot row).cscResult.tableSel = tableSelect true s.cscEncoding := by
    rw [← hyuv]
    rfl
  rw [sequencerRun_add 1 10 hmap]
  exact run_coefSteps rfl rfl rfl (by rw [hsel]; exact y2rTable_tableSelect _ _)

/-- Settles O31: step 0x40 finds a YUV format, and the words of the statement are `coefWrites` of the latched slot and
the table chosen, under the numbers of their steps. -/
theorem loadYuvCompletes : Obligations.LoadYuvCompletes := by
  rintro s slot row sel tab coef plane words hv hidle hslot hrow hyuv rfl htab rfl rfl hwords
  have hwrites : words.map (fun c => (BitVec.ofNat 8 c.1, c.2)) =
      coefWrites (s.loadMapped slot row).cfg (s.loadMapped slot row).latch.sel.toNat tab := by
    change _ = coefWrites s.cfg slot.toNat tab
    simp [hwords, coefWrites, List.range_succ, coefOffset_eq, coefWord, lanePair_eq_append]
  refine ⟨s.loadAccepted slot, (s.loadMapped slot row).coefLoaded tab, exec_cscLoad hv hidle hslot, rfl,
    by rw [run_load_yuv hrow hyuv, htab], ?_, ?_, ?_⟩
  · refine (State.coefLoaded_eq _ _).trans ?_
    rw [← hwrites, List.map_map, State.loadMapped, State.formatMapped, mapResult, hyuv]
    rfl
  · have hread := coefLoaded_words (s := s.loadMapped slot row) hv hslot tab
    rwa [← hwrites, List.forall_mem_map] at hread
  · intro off hoff
    refine coefLoaded_other (s := s.loadMapped slot row) ?_
    rwa [← hwrites, List.forall_mem_map]

end Sys2Proof.Machine
end

section
/-! The two commands that complete at acceptance (43_system.md R241, R243). -/

namespace Sys2Proof.Machine

/-- What completion at acceptance leaves: the command and its latches, DONE set and FAIL clear; BUSY stays as it was. -/
theorem State.complete_accept_encode (i : Instr) (s : State) : (s.accept (encode i)).complete = { s with
    cmd := encode i
    latch := s.snapshot i.opcode i.sel
    status := { s.status with done := true, fail := false } } := by
  rw [State.accept, latchInputs_encode]
  rfl

theorem exec_nop {s : State} (h : s.status.busy = false) : exec .nop s = .next (s.accept (encode .nop)).complete :=
  State.issue_of_idle h _

/-- CLRERR is accepted as NOP is, with the six ERR bits cleared beside. -/
theorem exec_clrerr {s : State} (h : s.status.busy = false) :
    exec .clrerr s = .next { (s.accept (encode .clrerr)).complete with err := Err.reset } :=
  State.issue_of_idle h _

/-- Settles O10: NOP ends in its acceptance while idle, and is a command issued while BUSY otherwise. -/
theorem nopCompletes : Obligations.NopCompletes := by
  intro s
  constructor
  · intro hidle
    rw [exec_nop hidle, State.complete_accept_encode]
    rfl
  · exact exec_of_busy .nop

/-- Settles O11: CLRERR ends in its acceptance while idle, and is a command issued while BUSY otherwise. -/
theorem clrerrCompletes : Obligations.ClrerrCompletes := by
  intro s
  constructor
  · intro hidle
    rw [exec_clrerr hidle, State.complete_accept_encode]
    rfl
  · exact exec_of_busy .clrerr

end Sys2Proof.Machine
end

section
/-! The faults (60_exceptions.md section 2): the three raised at issue, and the two timeouts of the lock wait. -/

namespace Sys2Proof.Machine

/-! Faults at issue. -/

/-- Settles O7: `exec_of_busy` for a command; a word is not even decoded while BUSY. -/
theorem busyEngineDiscardsCommands : Obligations.BusyEngineDiscardsCommands :=
  fun _ hbusy => ⟨fun i => exec_of_busy i hbusy, fun _ => if_pos hbusy⟩

theorem issueWord_of_reject {s : State} {w : Word} {r : Reject} (hidle : s.status.busy = false)
    (hw : decodeWord w = .reject r) : issueWord w s = .next (s.raise .illegalCmd) := by
  simp [issueWord, hidle, hw]

/-- Settles O8: the step is the host's write to CMD, which reports the word. -/
theorem illegalWordOnlyReports : Obligations.IllegalWordOnlyReports := by
  intro s w r hv habout hidle hw
  obtain ⟨-, hissue⟩ := stepPerformsHostWrite s 0x00 w hv habout
  exact (hissue rfl).trans (issueWord_of_reject hidle hw)

theorem exec_vtDc_of_badPanel {s : State} {panel : Byte} (hidle : s.status.busy = false)
    (hpanel : s.cfg.consts.nPanel ≤ panel.toNat) : exec (.vtDc panel) s = .next (s.raise .badOperand) := by
  refine (State.issue_of_idle hidle _).trans ?_
  rw [if_neg (by omega)]

theorem exec_cscLoad_of_badSlot {s : State} {slot : Byte} (hidle : s.status.busy = false)
    (hslot : s.cfg.consts.nLayer ≤ slot.toNat) : exec (.cscLoad slot) s = .next (s.raise .badOperand) := by
  refine (State.issue_of_idle hidle _).trans ?_
  rw [if_neg (by omega)]

/-- Settles O9: a valid configuration has two panels and six layer slots. -/
theorem operandOutOfRangeOnlyReports : Obligations.OperandOutOfRangeOnlyReports := by
  intro s sel hv hidle
  obtain ⟨hpanels, hlayers, -⟩ := counts_of_valid hv
  exact ⟨fun hsel => exec_vtDc_of_badPanel hidle (by rwa [hpanels]),
    fun hsel => exec_cscLoad_of_badSlot hidle (by rwa [hlayers])⟩

/-! Timeouts of the lock wait. -/

/-- Reads of a lock register from the count 0 that fail N_POLL_MAX times in a row. -/
theorem run_poll_budget {s : State} (hb : s.status.busy = true) {step : Byte} {reg : Nat} {c : Cause}
    (hs : s.seqStep = step)
    (hsr : (step = 0x16 ∧ reg = 0x11 ∧ c = .lockTimeoutPre) ∨ (step = 0x17 ∧ reg = 0x12 ∧ c = .lockTimeoutPost))
    (hm : step ∈ stepList s.cfg s.latch.op) (hcount : s.pollcnt = 0) (hbudget : 1 ≤ s.cfg.nPollMax)
    (hfail : ∀ k < s.cfg.nPollMax, reportsLock s.cfg (s.lockAnswerAt k) = false) :
    sequencerRun s.cfg.nPollMax s = .next ((s.polled step reg s.cfg.nPollMax).raise c) := by
  obtain ⟨n, hn⟩ : ∃ n, s.cfg.nPollMax = n + 1 := Nat.exists_eq_add_of_le' hbudget
  rw [hn] at hfail ⊢
  exact run_poll_timeout hb n hs hsr hm (by omega) hfail

/-- Settles O18: acceptance leaves the engine at the first poll with the count 0, and every read of the budget fails. -/
theorem waitlockPreTimeout : Obligations.WaitlockPreTimeout := by
  intro s t hv hidle haccept hfail
  cases (exec_pllWaitlock hidle).symm.trans haccept
  refine (run_poll_budget (s := s.waitlockAccepted) rfl rfl (.inl ⟨rfl, rfl, rfl⟩)
    (show (0x16 : Byte) ∈ [0x16, 0x17] by decide) rfl (pollBound_of_valid hv) hfail).trans ?_
  rw [State.polled, show s.waitlockAccepted.pollcnt = 0 from rfl, Nat.zero_add]
  rfl

/-- Settles O19: the pre-PLL locks within its budget, and the polls of the post-PLL begin again at the count 0. -/
theorem waitlockPostTimeout : Obligations.WaitlockPostTimeout := by
  intro s t m hv hidle haccept hm hfailPre hlockPre hfailPost
  cases (exec_pllWaitlock hidle).symm.trans haccept
  have hpre := run_poll_pre (s := s.waitlockAccepted) rfl m rfl (show (0x16 : Byte) ∈ [0x16, 0x17] by decide)
    (show 0 + m < s.cfg.nPollMax by omega) hfailPre hlockPre
  have hanswer : ∀ k, (s.waitlockAccepted.polled 0x16 0x11 (m + 1)).lockAnswerAt k = s.lockAnswerAt (m + 1 + k) :=
    lockAnswerAt_afterAnswers s.waitlockAccepted (m + 1)
  have hpost := run_poll_budget (s := { s.waitlockAccepted.polled 0x16 0x11 (m + 1) with
      status := { s.waitlockAccepted.status with preLocked := true }, pollcnt := 0, seqStep := 0x17 })
    rfl rfl (.inr ⟨rfl, rfl, rfl⟩) (show (0x17 : Byte) ∈ [0x16, 0x17] by decide) rfl (pollBound_of_valid hv)
    (fun k hk => (congrArg _ (hanswer k)).trans (hfailPost k hk))
  refine (sequencerRun_add _ _ hpre).trans (hpost.trans ?_)
  rw [State.polled_polled, Nat.zero_add]
  rfl

end Sys2Proof.Machine
end

section
/-! The reset state and a reset event (70_reset_and_hazards.md R290, R292): the state after reset is consistent, and the
engine window and the latches after a reset event are those of it. -/

namespace Sys2Proof.Machine

/-- None of the OPEN parameters, which are opaque, is looked at. -/
theorem configValid_machine : configValid Config.machine = true := by decide +kernel

/-- Settles O36: the latched command of the reset state is NOP, and every clause speaks of fields that are 0. -/
theorem resetIsConsistent : Obligations.ResetIsConsistent where
  cfgValid := configValid_machine
  txWf := rfl
  dcWf := rfl
  busyNotDone := nofun
  failDone := nofun
  idleStep _ := rfl
  busyStep := nofun
  accepted := ⟨.nop, rfl, rfl, rfl, rfl⟩
  pollBound := Nat.zero_le _
  polling := nofun
  resultInvalid _ := rfl
  resultTable := nofun
  coefYuv := nofun
  postSel := Nat.zero_le _
  prediv := .inl rfl
  fbdiv _ := Nat.zero_le _
  fracDiv _ := Nat.zero_le _
  rgbBanks := rfl

theorem platformReset_readRegister (s : State) (r : EngReg) :
    s.platformReset.readRegister r = State.reset.readRegister r := by
  cases r <;> rfl

theorem platformReset_windowRead (s : State) (index : Nat) :
    s.platformReset.windowRead index = State.reset.windowRead index := by
  cases h : engRegister index with
  | none => rw [State.windowRead_of_reserved _ h, State.windowRead_of_reserved _ h]
  | some r => rw [State.windowRead_of_register _ h, State.windowRead_of_register _ h, platformReset_readRegister]

/-- Settles O45: the step is the reset event, whose engine is that of the reset state. -/
theorem platformResetClearsEngine : Obligations.PlatformResetClearsEngine := by
  intro s hv habout
  have hstep : step s = .next s.inputTaken.platformReset := step_outside hv habout
  obtain ⟨hwindow, hlatch⟩ := resetClearsEngine
  refine ⟨s.inputTaken.platformReset, hstep, fun index => ?_, rfl, hlatch⟩
  rw [platformReset_windowRead, hwindow]

end Sys2Proof.Machine
end

section
/-! Foreign writes and the exclusive window (70_reset_and_hazards.md R310; log 14): which registers the latched command
touches, and what a foreign write does to one of them, to a lock register and to any other. -/

namespace Sys2Proof.Machine

/-! The registers of the HDMI block. -/

theorem toNat_mem_fieldSteps {width : FieldWidth} {low high : Byte} {n : Nat} :
    n ∈ (fieldSteps width low high).map BitVec.toNat ↔ n = low.toNat ∨ (n = high.toNat ∧ width = .pair) := by
  cases width <;> simp [fieldSteps]

/-- 41_timing.md R186 by TX_W (log 11): the low part of every field, and the high part of those that are pairs. -/
theorem toNat_mem_timingSteps {c : Config} {n : Nat} : n ∈ (timingSteps c).map BitVec.toNat ↔
    n ∈ [0x20, 0x21, 0x23, 0x25, 0x27, 0x29, 0x2B, 0x2C, 0x2D] ∨ (n = 0x22 ∧ c.txWidth.htotal = .pair) ∨
      (n = 0x24 ∧ c.txWidth.hblank = .pair) ∨ (n = 0x26 ∧ c.txWidth.hdelay = .pair) ∨
      (n = 0x28 ∧ c.txWidth.hduration = .pair) ∨ (n = 0x2A ∧ c.txWidth.vtotal = .pair) ∨
      (n = 0x1D ∧ c.txWidth.vblank = .pair) ∨ (n = 0x1E ∧ c.txWidth.vdelay = .pair) ∨
      (n = 0x1F ∧ c.txWidth.vduration = .pair) := by
  simp only [timingSteps, List.map_cons, List.map_append, List.mem_cons, List.mem_append, toNat_mem_fieldSteps,
    List.not_mem_nil, or_false, BitVec.reduceToNat]
  exact iff_of_eq (by ac_rfl)

/-- 30_encoding.md R110: the registers of each command that makes an access to the HDMI block. -/
theorem mem_touchedTx {c : Config} {op : Byte} {n : Nat} : n ∈ touchedTx c op ↔
    (op = 0x03 ∧ n ≤ 0x10) ∨ (op = 0x04 ∧ (n = 0x11 ∨ n = 0x12)) ∨ (op = 0x05 ∧ n ≤ 0x12) ∨
      (op = 0x10 ∧ n ∈ (timingSteps c).map BitVec.toNat) := by
  unfold touchedTx
  split_ifs with h h h h
  · subst h; simp [Nat.lt_succ_iff]
  · subst h; simp
  · subst h; simp [Nat.lt_succ_iff]
  · subst h; simp
  · exact iff_of_false List.not_mem_nil (by tauto)

theorem commandTouches_tx_iff {s : State} {off : Nat} : commandTouches s .tx off = true ↔
    ∃ n, off = txByteOffset s.cfg n ∧ n ∈ touchedTx s.cfg s.latch.op := by
  simp only [commandTouches, List.contains_iff_mem, List.mem_map, and_comm, @eq_comm _ off]

theorem hitsLockRegister_iff {c : Config} {off : Nat} :
    hitsLockRegister c off = true ↔ off = txByteOffset c 0x11 ∨ off = txByteOffset c 0x12 := by
  simp [hitsLockRegister]

/-! The registers of the display controller. -/

theorem mem_coefOffsets_iff {c : Config} {slot off : Nat} : off ∈ (List.range 10).map (coefOffset c slot) ↔
    ∃ o ∈ (if slot < 2 then c.coefPrimary else c.coefOverlay).toList, off = o + c.planeOff[slot]?.getD 0 := by
  constructor
  · intro h
    obtain ⟨k, hk, rfl⟩ := List.mem_map.1 h
    have hk : k < 10 := List.mem_range.1 hk
    exact ⟨_, Vector.mem_toList_iff.2 (Vector.getElem_mem hk), coefOffset_eq c slot hk⟩
  · rintro ⟨o, ho, rfl⟩
    obtain ⟨k, hk, rfl⟩ := Vector.mem_iff_getElem.1 (Vector.mem_toList_iff.1 ho)
    exact List.mem_map.2 ⟨k, List.mem_range.2 hk, coefOffset_eq c slot hk⟩

/-- The four timing words of the panel for VT.DC, the ten coefficient registers of the slot for CSC.LOAD of a YUV
format. -/
theorem mem_touchedDc {c : Config} (hv : configValid c = true) {l : Latches} {off : Nat} : off ∈ touchedDc c l ↔
    (l.op = 0x11 ∧ ∃ o ∈ [c.dcOff.displayH, c.dcOff.displayHsync, c.dcOff.displayV, c.dcOff.displayVsync],
      off = o + c.panelOff[l.sel.toNat]?.getD 0) ∨
    (l.op = 0x21 ∧ ∃ row, c.fmtMap.find? (fun x => decide (x.key = l.fmt)) = some row ∧ row.isYuv = true ∧
      ∃ o ∈ (if l.sel.toNat < 2 then c.coefPrimary else c.coefOverlay).toList,
        off = o + c.planeOff[l.sel.toNat]?.getD 0) := by
  obtain ⟨-, -, -, hcount⟩ := counts_of_valid hv
  rw [← lookupFormat_eq_find?]
  unfold touchedDc
  by_cases hpanel : l.op = 0x11
  · simp [hpanel, timingOffset, panelOffset]
  by_cases hslot : l.op = 0x21
  · rw [hcount, if_neg hpanel, if_pos hslot]
    cases lookupFormat c.fmtMap l.fmt with
    | none => simp [hslot]
    | some row =>
      simp only [← mem_coefOffsets_iff]
      cases hyuv : row.isYuv <;> simp [hslot, hyuv]
  · rw [if_neg hpanel, if_neg hslot]
    exact iff_of_false List.not_mem_nil (by tauto)

theorem commandTouches_dc_iff {s : State} {off : Nat} :
    commandTouches s .dc off = true ↔ off ∈ touchedDc s.cfg s.latch := List.contains_iff_mem

/-! A foreign write. -/

theorem foreignWrite_of_touched {s : State} {space : Space} {off : Nat} (v : Word) (hb : s.status.busy = true)
    (h : commandTouches s space off = true) : foreignWrite space off v s = .refused .exclusiveWindow := by
  simp [foreignWrite, hb, h]

theorem foreignWrite_of_lock {s : State} {off : Nat} (v : Word)
    (h : ¬ (s.status.busy = true ∧ commandTouches s .tx off = true)) (hlock : hitsLockRegister s.cfg off = true) :
    foreignWrite .tx off v s = .next s := by
  unfold foreignWrite
  rw [if_neg (by simpa using h), if_pos (by simpa using hlock)]

theorem foreignWrite_of_storage {s : State} {space : Space} {off : Nat} (v : Word)
    (h : ¬ (s.status.busy = true ∧ commandTouches s space off = true))
    (hlock : space = .tx → ¬ hitsLockRegister s.cfg off = true) :
    foreignWrite space off v s = .next (s.memWrite space off v) := by
  unfold foreignWrite
  rw [if_neg (by simpa using h), if_neg (by simpa using hlock)]

/-- Settles O52: the step is the foreign write; the statement's lists are the registers the command touches. -/
theorem foreignWritesKeepExclusiveWindow : Obligations.ForeignWritesKeepExclusiveWindow := by
  rintro s index sel v c w tx dc lock hv rfl rfl rfl htx hdc hlock
  have htouchTx : tx ↔ commandTouches s.inputTaken .tx (4 * index) = true := by
    rw [htx, commandTouches_tx_iff]
    simp only [mem_touchedTx, toNat_mem_timingSteps]
    rfl
  have htouchDc : dc ↔ commandTouches s.inputTaken .dc (4 * index) = true :=
    hdc.trans ((mem_touchedDc hv).symm.trans commandTouches_dc_iff.symm)
  rw [← hitsLockRegister_iff] at hlock
  rw [htouchTx, htouchDc, hlock]
  refine ⟨fun habout => ?_, fun habout => ?_⟩
  · have hstep : step s = foreignWrite .tx (4 * index) v s.inputTaken := step_outside hv habout
    rw [hstep]
    exact ⟨fun ⟨hb, h⟩ => foreignWrite_of_touched v hb h, fun h hl => foreignWrite_of_lock v h hl,
      fun h hl => ⟨_, foreignWrite_of_storage v h fun _ => hl, rfl,
        State.memRead_memWrite_same s.inputTaken _ v nofun,
        fun off hoff => State.memRead_memWrite_other s.inputTaken v (.inr hoff)⟩⟩
  · have hstep : step s = foreignWrite .dc (4 * index) v s.inputTaken := step_outside hv habout
    rw [hstep]
    exact ⟨fun ⟨hb, h⟩ => foreignWrite_of_touched v hb h, fun h => ⟨_, foreignWrite_of_storage v h nofun, rfl,
        State.memRead_memWrite_same s.inputTaken _ v nofun,
        fun off hoff => State.memRead_memWrite_other s.inputTaken v (.inr hoff)⟩⟩

end Sys2Proof.Machine
end

section
/-! A turn of the sequencer keeps the invariant of Safety.lean: each micro-step does, and Laws/Invariant.lean has the
operations they are built from. -/

namespace Sys2Proof.Machine

theorem Consistent.stepSolvePre {s : State} (h : Consistent s) : Consistent s.stepSolvePre := by
  have ranges (hk : s.cfg.consts = {}) := fractionRanges s.cfg s.latch.rate _ _ _ hk rfl rfl rfl
  cases h
  constructor
  case prediv => exact .inr rfl
  case fbdiv =>
    intro hk
    obtain ⟨-, -, hfbdiv, -⟩ := ranges hk
    exact hfbdiv
  case fracDiv =>
    intro hk
    obtain ⟨-, -, -, -, -, -, hfracDiv, -⟩ := ranges hk
    exact hfracDiv
  all_goals assumption

theorem Consistent.stepSolvePost {s : State} (h : Consistent s) : Consistent s.stepSolvePost := by
  have hsel : (solvePost s.cfg s.latch.rate.toNat).sel.toNat ≤ 5 := by
    have hlt := (postSelect s.cfg.consts s.latch.rate.toNat).isLt
    exact (BitVec.toNat_ofNat _ _).trans_le ((Nat.mod_le _ _).trans (by omega))
  cases h
  constructor
  case postSel => exact hsel
  all_goals assumption

/-- A poll of PRE_PLL_LOCK, which reports lock or counts. -/
theorem Consistent.stepPollPre {s : State} (h : Consistent s) (hb : s.status.busy = true)
    (hop : s.latch.op = 0x04 ∨ s.latch.op = 0x05) : Consistent s.stepPollPre := by
  have hread := h.lockReadLogged regPrePllLock
  have hpost : (0x17 : Byte) ∈ stepList s.cfg s.latch.op := by rcases hop with hop | hop <;> simp [hop, stepList]
  have hbound : 0 < s.cfg.nPollMax := pollBound_of_valid h.cfgValid
  unfold State.stepPollPre
  simp only
  split
  · cases hread
    constructor
    case idleStep => intro hidle; simp [hb] at hidle
    case busyStep => simpa using fun _ => hpost
    case pollBound => exact Nat.zero_le _
    case polling => exact fun _ _ => by simpa using hbound
    case coefYuv => exact fun _ hcoef => absurd (show (0x17 : Byte) ∈ coefSteps from hcoef) (by decide)
    all_goals assumption
  · exact hread.pollFailed (by simpa using hb) (by simpa using hop) (.inl rfl)

/-- A poll of POST_PLL_LOCK, which retires or counts. -/
theorem Consistent.stepPollPost {s : State} (h : Consistent s) (hb : s.status.busy = true)
    (hop : s.latch.op = 0x04 ∨ s.latch.op = 0x05) : Consistent s.stepPollPost := by
  have hread := h.lockReadLogged regPostPllLock
  unfold State.stepPollPost
  simp only
  split
  · refine Consistent.retire ?_
    exact hread.congr rfl rfl rfl rfl rfl rfl rfl rfl rfl rfl rfl hread.txWf hread.dcWf rfl
  · exact hread.pollFailed (by simpa using hb) (by simpa using hop) (.inr rfl)

/-- Writing CSC_RESULT for a mapped format at step 0x40. -/
theorem Consistent.formatMapped {s : State} (h : Consistent s) (hs : s.seqStep = 0x40) (row : FmtRow) :
    Consistent (s.formatMapped row) := by
  obtain ⟨hvalid, -, htable⟩ := mapResult_valid s.cfg row s.latch.enc
  exact h.setCscResult (fun hinvalid => by rw [hvalid] at hinvalid; cases hinvalid) (fun _ => htable) hs

theorem Consistent.drawRgbBank {s : State} (h : Consistent s) (slot : Nat) : Consistent (s.drawRgbBank slot) := by
  have hbanks : (s.rgbBank.modify slot (· + 1)).length = s.cfg.consts.nLayer :=
    (List.length_modify _ _ _).trans h.rgbBanks
  cases h
  constructor
  case rgbBanks => exact hbanks
  all_goals assumption

/-- 42_colour.md R219: CSC.LOAD goes on from step 0x40 for a YUV format only. -/
theorem Consistent.coefStart {s : State} {row : FmtRow} (h : Consistent (s.formatMapped row))
    (hb : s.status.busy = true) (hop : s.latch.op = 0x21) (hyuv : row.isYuv = true) :
    Consistent ((s.formatMapped row).atStep 0x41) := by
  have hmem : (0x41 : Byte) ∈ stepList s.cfg s.latch.op := by simp [hop, stepList, coefSteps]
  cases h
  constructor
  case idleStep => exact fun hidle => absurd (hb.symm.trans hidle) (by decide)
  case busyStep => exact fun _ => hmem
  case coefYuv => exact fun _ _ => ⟨rfl, hyuv⟩
  all_goals assumption

theorem Consistent.stepMapFmt {s : State} (h : Consistent s) (hb : s.status.busy = true) (hs : s.seqStep = 0x40)
    (hop : s.latch.op = 0x20 ∨ s.latch.op = 0x21) : Consistent s.stepMapFmt := by
  cases hrow : lookupFormat s.cfg.fmtMap s.latch.fmt with
  | none =>
    rw [stepMapFmt_of_unmapped hrow]
    exact (h.setCscResult (fun _ => rfl) nofun hs).raise_sequencer (.inl rfl)
  | some row =>
    have hmapped := h.formatMapped hs row
    rcases hop with hop | hop
    · rw [stepMapFmt_of_mapfmt hrow hop]
      exact hmapped.retire
    · cases hyuv : row.isYuv with
      | false =>
        rw [stepMapFmt_of_load_rgb hrow hop hyuv]
        exact (hmapped.drawRgbBank _).retire
      | true =>
        rw [stepMapFmt_of_load_yuv hrow hop hyuv]
        exact hmapped.coefStart hb hop hyuv

theorem ne_of_isRegisterStep {n : Byte} (h : isRegisterStep n = true) :
    n ≠ 0x01 ∧ n ≠ 0x02 ∧ n ≠ 0x16 ∧ n ≠ 0x17 ∧ n ≠ 0x40 := by
  simpa [isRegisterStep, and_assoc] using h

theorem sequencerStep_consistent {s t : State} (hc : Consistent s) (hb : s.status.busy = true)
    (h : sequencerStep s = .next t) : Consistent t := by
  obtain ⟨hm, hcases⟩ := sequencerStep_cases h
  obtain ⟨-, hpoll, hmap⟩ := opcode_of_step hm
  obtain ⟨hs, rfl⟩ | ⟨hs, rfl⟩ | ⟨hs, rfl⟩ | ⟨hs, rfl⟩ | ⟨hs, rfl⟩ | ⟨hs, a, -, rfl⟩ := hcases
  · exact hc.stepSolvePre.advance hb (show s.seqStep ≠ 0x40 by rw [hs]; decide)
  · exact hc.stepSolvePost.advance hb (show s.seqStep ≠ 0x40 by rw [hs]; decide)
  · exact hc.stepPollPre hb (hpoll (.inl hs))
  · exact hc.stepPollPost hb (hpoll (.inr hs))
  · exact hc.stepMapFmt hb hs (hmap hs)
  · obtain ⟨-, -, -, -, hne⟩ := ne_of_isRegisterStep hs
    exact (hc.perform a).advance (by simpa using hb) (by simpa using hne)

theorem sequencerTurn_consistent {s t : State} (hc : Consistent s) (h : sequencerTurn s = .next t) : Consistent t := by
  obtain ⟨-, rfl⟩ | ⟨hb, hstep⟩ := sequencerTurn_cases h
  · exact hc
  · exact sequencerStep_consistent hc hb hstep

end Sys2Proof.Machine
end

section
/-! A consistent state's sequencer has a micro-step to make: every step of a command's list is one of the steps that
`sequencerStep` names or a register step of one of the four units (30_encoding.md R110). -/

namespace Sys2Proof.Machine

/-- The access is that of the first unit that knows the step. -/
theorem stepAccess_eq_or (s : State) : stepAccess s =
    (pllAccess s.cfg s.pre s.post s.seqStep.toNat).or
      ((timingAccess s.cfg s.latch.mode s.seqStep.toNat).or
        ((panelAccess s.cfg s.latch.mode s.latch.sel.toNat s.seqStep.toNat).or
          (coefAccess s.cfg s.cscResult.tableSel s.latch.sel.toNat s.seqStep.toNat))) := by
  simp only [stepAccess]
  cases pllAccess s.cfg s.pre s.post s.seqStep.toNat with
  | some a => rfl
  | none =>
    cases timingAccess s.cfg s.latch.mode s.seqStep.toNat with
    | some a => rfl
    | none => cases panelAccess s.cfg s.latch.mode s.latch.sel.toNat s.seqStep.toNat <;> rfl

/-- The register steps of the step lists, by unit. -/
theorem registerStep_cases {c : Config} {op a : Byte} (hm : a ∈ stepList c op) (ha : isRegisterStep a = true) :
    a ∈ programSteps ∨ a ∈ allTimingSteps ∨ a ∈ ([0x30, 0x31, 0x32, 0x33] : List Byte) ∨ a ∈ coefSteps := by
  unfold stepList at hm
  split_ifs at hm
  · exact absurd ha ((by decide : ∀ x ∈ ([0x01] : List Byte), ¬ isRegisterStep x = true) a hm)
  · exact absurd ha ((by decide : ∀ x ∈ ([0x02] : List Byte), ¬ isRegisterStep x = true) a hm)
  · exact .inl hm
  · exact absurd ha ((by decide : ∀ x ∈ ([0x16, 0x17] : List Byte), ¬ isRegisterStep x = true) a hm)
  · exact .inl ((by decide : ∀ x ∈ (0x01 : Byte) :: 0x02 :: (programSteps ++ [0x16, 0x17]),
      isRegisterStep x = true → x ∈ programSteps) a hm ha)
  · exact .inr (.inl (mem_allTimingSteps hm))
  · exact .inr (.inr (.inl hm))
  · exact absurd ha ((by decide : ∀ x ∈ ([0x40] : List Byte), ¬ isRegisterStep x = true) a hm)
  · exact .inr (.inr (.inr ((by decide : ∀ x ∈ (0x40 : Byte) :: coefSteps,
      isRegisterStep x = true → x ∈ coefSteps) a hm ha)))
  · cases hm

theorem isSome_pllAccess (c : Config) (pre : PreResult) (post : PostResult) :
    ∀ a ∈ programSteps, (pllAccess c pre post a.toNat).isSome = true := by
  simp [programSteps, pllAccess]

theorem isSome_timingAccess (c : Config) (m : Mode) :
    ∀ a ∈ allTimingSteps, (timingAccess c m a.toNat).isSome = true := by
  simp [allTimingSteps, timingAccess]

theorem isSome_panelAccess (c : Config) (m : Mode) (p : Nat) :
    ∀ a ∈ ([0x30, 0x31, 0x32, 0x33] : List Byte), (panelAccess c m p a.toNat).isSome = true := by
  simp [panelAccess]

/-- A table is chosen unless TABLE_SEL is 3. -/
theorem isSome_y2rTable (c : Config) {sel : BitVec 2} (h : sel ≠ 3) : (y2rTable c sel).isSome = true := by
  have hsel : sel = 0 ∨ sel = 1 ∨ sel = 2 := by revert sel; decide
  rcases hsel with rfl | rfl | rfl <;> rfl

theorem isSome_coefAccess (c : Config) {sel : BitVec 2} (h : sel ≠ 3) (slot : Nat) :
    ∀ a ∈ coefSteps, (coefAccess c sel slot a.toNat).isSome = true := by
  intro a ha
  have hrange : 0x41 ≤ a.toNat ∧ a.toNat ≤ 0x4A := by revert a; decide
  rw [coefAccess, if_pos hrange, Option.isSome_map, isSome_y2rTable c h]

/-- A register step of a consistent state has its access: coefficient steps run with a table chosen. -/
theorem exists_stepAccess {s : State} (hc : Consistent s) (hb : s.status.busy = true)
    (hreg : isRegisterStep s.seqStep = true) : ∃ a, stepAccess s = some a := by
  rw [← Option.isSome_iff_exists, stepAccess_eq_or]
  simp only [Option.isSome_or, Bool.or_eq_true]
  obtain hpll | htiming | hpanel | hcoef := registerStep_cases (hc.busyStep hb) hreg
  · exact .inl (isSome_pllAccess _ _ _ _ hpll)
  · exact .inr (.inl (isSome_timingAccess _ _ _ htiming))
  · exact .inr (.inr (.inl (isSome_panelAccess _ _ _ _ hpanel)))
  · obtain ⟨hvalid, hyuv⟩ := hc.coefYuv hb hcoef
    exact .inr (.inr (.inr (isSome_coefAccess _ ((hc.resultTable hvalid).1 hyuv) _ _ hcoef)))

/-- A running command of a consistent state is never stuck. -/
theorem exists_sequencerStep {s : State} (hc : Consistent s) (hb : s.status.busy = true) :
    ∃ t, sequencerStep s = .next t := by
  have hm := hc.busyStep hb
  by_cases hreg : isRegisterStep s.seqStep = true
  · obtain ⟨a, ha⟩ := exists_stepAccess hc hb hreg
    exact ⟨_, by rw [sequencerStep_register hm hreg, State.stepRegister, ha]⟩
  · have hstep : s.seqStep = 0x01 ∨ s.seqStep = 0x02 ∨ s.seqStep = 0x16 ∨ s.seqStep = 0x17 ∨ s.seqStep = 0x40 := by
      simpa [isRegisterStep, imp_iff_not_or, or_assoc] using hreg
    rw [← sequencerTurn_of_busy hb]
    rcases hstep with hs | hs | hs | hs | hs
    · exact ⟨_, turn_solvePre hb hs (hs ▸ hm)⟩
    · exact ⟨_, turn_solvePost hb hs (hs ▸ hm)⟩
    · exact ⟨_, turn_pollPre hb hs (hs ▸ hm)⟩
    · exact ⟨_, turn_pollPost hb hs (hs ▸ hm)⟩
    · exact ⟨_, turn_mapFmt hb hs (hs ▸ hm)⟩

end Sys2Proof.Machine
end

section
/-! The bound of 70_reset_and_hazards.md R320 and 40_pll.md R167: the sequencer turns a running command has left at most
fall by one or more at each turn, so the command ends within as many. -/

namespace Sys2Proof.Machine

/-- A command has just ended: idle, DONE, STEP 0 (30_encoding.md R108, 60_exceptions.md R255). -/
def State.Ended (s : State) : Prop := s.status.busy = false ∧ s.status.done = true ∧ s.seqStep = 0

/-- The failed polls ahead at most: one budget at step 0x17, before it both (40_pll.md R160, R161), less those counted. -/
def State.pollsLeft (s : State) : Nat := (if s.seqStep = 0x17 then s.cfg.nPollMax else 2 * s.cfg.nPollMax) - s.pollcnt

/-- The turns ahead at most: the steps from the present one on, and the polls that can fail. -/
def State.turnsLeft (s : State) : Nat :=
  (stepList s.cfg s.latch.op).length - (stepList s.cfg s.latch.op).idxOf s.seqStep + s.pollsLeft

/-- From `s` to `t` the command ended, or came nearer to its end. -/
def Progress (s t : State) : Prop := t.Ended ∨ (t.status.busy = true ∧ t.turnsLeft < s.turnsLeft)

theorem State.pollsLeft_le (s : State) : s.pollsLeft ≤ 2 * s.cfg.nPollMax - s.pollcnt := by
  unfold State.pollsLeft
  split <;> omega

theorem State.pollsLeft_of_ne {s : State} (hs : s.seqStep ≠ 0x17) : s.pollsLeft = 2 * s.cfg.nPollMax - s.pollcnt := by
  rw [State.pollsLeft, if_neg hs]

theorem State.turnsLeft_le (s : State) :
    s.turnsLeft ≤ (stepList s.cfg s.latch.op).length + 2 * s.cfg.nPollMax := by
  have hpolls := s.pollsLeft_le
  unfold State.turnsLeft
  omega

theorem State.turnsLeft_pos {s : State} (hm : s.seqStep ∈ stepList s.cfg s.latch.op) : 0 < s.turnsLeft := by
  have hidx := List.idxOf_lt_length_of_mem hm
  unfold State.turnsLeft
  omega

theorem State.retire_ended (s : State) : s.retire.Ended := ⟨rfl, rfl, rfl⟩

theorem State.raise_ended {c : Cause} (hc : c.atIssue = false) (s : State) : (s.raise c).Ended := by
  obtain ⟨-, hidle, hdone, -, hzero⟩ := State.raise_of_sequencer hc s
  exact ⟨hidle, hdone, hzero⟩

/-- One place further on in the step list, with no more polls ahead. -/
theorem turnsLeft_lt_of_following {s t : State} (hcfg : t.cfg = s.cfg) (hlatch : t.latch = s.latch)
    (hnext : following s.seqStep (stepList s.cfg s.latch.op) = some t.seqStep) (hpolls : t.pollsLeft ≤ s.pollsLeft) :
    t.turnsLeft < s.turnsLeft := by
  have hidx := following_idxOf (stepList_nodup s.cfg s.latch.op) hnext
  have hlt := List.idxOf_lt_length_of_mem (following_mem hnext)
  unfold State.turnsLeft
  rw [hcfg, hlatch]
  omega

/-- The end of a step that is no poll. -/
theorem State.advance_progress {s : State} (hb : s.status.busy = true) (hs : s.seqStep ≠ 0x17) :
    Progress s s.advance := by
  cases hnext : following s.seqStep (stepList s.cfg s.latch.op) with
  | none =>
    rw [State.advance_of_last hnext]
    exact .inl s.retire_ended
  | some n =>
    rw [State.advance_of_following hnext]
    refine .inr ⟨hb, turnsLeft_lt_of_following rfl rfl hnext ?_⟩
    calc (s.atStep n).pollsLeft ≤ 2 * s.cfg.nPollMax - s.pollcnt := (s.atStep n).pollsLeft_le
      _ = s.pollsLeft := (State.pollsLeft_of_ne hs).symm

/-- A failed poll spends one of the budget. -/
theorem State.pollFailed_progress {s : State} {c : Cause} (hc : c.atIssue = false) (hb : s.status.busy = true)
    (hcount : s.pollcnt < s.cfg.nPollMax) : Progress s (s.pollFailed c) := by
  rcases State.pollFailed_cases s c with e | e <;> rw [e]
  · refine .inr ⟨hb, ?_⟩
    simp only [State.turnsLeft, State.pollsLeft]
    split <;> omega
  · exact .inl (State.raise_ended hc _)

/-- Step 0x17 follows step 0x16 in both commands that wait (30_encoding.md R106). -/
theorem following_pollPre (c : Config) {op : Byte} (h : op = 0x04 ∨ op = 0x05) :
    following 0x16 (stepList c op) = some 0x17 := by
  rcases h with rfl | rfl <;> rfl

@[simp] theorem State.lockReadLogged_pollcnt (s : State) (n : Nat) : (s.lockReadLogged n).pollcnt = s.pollcnt := by
  simp [State.lockReadLogged]

/-- A lock read changes nothing the turns ahead depend on. -/
theorem State.lockReadLogged_turnsLeft (s : State) (n : Nat) : (s.lockReadLogged n).turnsLeft = s.turnsLeft := by
  simp [State.turnsLeft, State.pollsLeft]

theorem State.stepPollPre_progress {s : State} (hb : s.status.busy = true) (hs : s.seqStep = 0x16)
    (hop : s.latch.op = 0x04 ∨ s.latch.op = 0x05) (hcount : s.pollcnt < s.cfg.nPollMax) :
    Progress s s.stepPollPre := by
  unfold State.stepPollPre
  simp only
  split
  · refine .inr ⟨by simpa using hb, turnsLeft_lt_of_following (by simp) (by simp) ?_ ?_⟩
    · rw [hs]
      exact following_pollPre _ hop
    · change (s.lockReadLogged regPrePllLock).cfg.nPollMax - 0 ≤ s.pollsLeft
      rw [State.lockReadLogged_cfg, State.pollsLeft_of_ne (by rw [hs]; decide)]
      omega
  · rw [Progress, ← s.lockReadLogged_turnsLeft regPrePllLock]
    exact State.pollFailed_progress rfl (by simpa using hb) (by simpa using hcount)

theorem State.stepPollPost_progress {s : State} (hb : s.status.busy = true) (hcount : s.pollcnt < s.cfg.nPollMax) :
    Progress s s.stepPollPost := by
  unfold State.stepPollPost
  simp only
  split
  · exact .inl (State.retire_ended _)
  · rw [Progress, ← s.lockReadLogged_turnsLeft regPostPllLock]
    exact State.pollFailed_progress rfl (by simpa using hb) (by simpa using hcount)

theorem State.stepMapFmt_progress {s : State} (hb : s.status.busy = true) (hs : s.seqStep = 0x40)
    (hop : s.latch.op = 0x20 ∨ s.latch.op = 0x21) : Progress s s.stepMapFmt := by
  cases hrow : lookupFormat s.cfg.fmtMap s.latch.fmt with
  | none =>
    rw [stepMapFmt_of_unmapped hrow]
    exact .inl (State.raise_ended rfl _)
  | some row =>
    rcases hop with hop | hop
    · rw [stepMapFmt_of_mapfmt hrow hop]
      exact .inl (State.retire_ended _)
    · cases hyuv : row.isYuv with
      | false =>
        rw [stepMapFmt_of_load_rgb hrow hop hyuv]
        exact .inl (State.retire_ended _)
      | true =>
        rw [stepMapFmt_of_load_yuv hrow hop hyuv]
        have hnext : following s.seqStep (stepList s.cfg s.latch.op) = some 0x41 := by rw [hs, hop]; rfl
        rw [← State.advance_of_following (s := s.formatMapped row) hnext]
        exact State.advance_progress (s := s.formatMapped row) hb (show s.seqStep ≠ 0x17 by rw [hs]; decide)

/-- A micro-step of a consistent state ends the command or brings it nearer to its end. -/
theorem sequencerStep_progress {s t : State} (hc : Consistent s) (hb : s.status.busy = true)
    (h : sequencerStep s = .next t) : Progress s t := by
  obtain ⟨hm, hcases⟩ := sequencerStep_cases h
  obtain ⟨-, hpoll, hmap⟩ := opcode_of_step hm
  obtain ⟨hs, rfl⟩ | ⟨hs, rfl⟩ | ⟨hs, rfl⟩ | ⟨hs, rfl⟩ | ⟨hs, rfl⟩ | ⟨hs, a, -, rfl⟩ := hcases
  · exact State.advance_progress (s := s.stepSolvePre) hb (show s.seqStep ≠ 0x17 by rw [hs]; decide)
  · exact State.advance_progress (s := s.stepSolvePost) hb (show s.seqStep ≠ 0x17 by rw [hs]; decide)
  · exact State.stepPollPre_progress hb hs (hpoll (.inl hs)) (hc.polling hb (hpoll (.inl hs)))
  · exact State.stepPollPost_progress hb (hc.polling hb (hpoll (.inr hs)))
  · exact State.stepMapFmt_progress hb hs (hmap hs)
  · obtain ⟨-, -, -, hne, -⟩ := ne_of_isRegisterStep hs
    have hturns : (s.perform a).turnsLeft = s.turnsLeft := by simp [State.turnsLeft, State.pollsLeft]
    rw [Progress, ← hturns]
    exact State.advance_progress (by simpa using hb) (by simpa using hne)

/-- A running command ends within any bound on the turns it has left. -/
theorem exists_run_to_end {s : State} (k : Nat) (hc : Consistent s) (hb : s.status.busy = true) (hk : s.turnsLeft ≤ k) :
    ∃ n t, n ≤ k ∧ sequencerRun n s = .next t ∧ t.Ended := by
  induction k generalizing s with
  | zero => exact absurd (State.turnsLeft_pos (hc.busyStep hb)) (by omega)
  | succ k ih =>
    obtain ⟨u, hstep⟩ := exists_sequencerStep hc hb
    have hturn : sequencerTurn s = .next u := (sequencerTurn_of_busy hb).trans hstep
    obtain hended | ⟨hbusy, hless⟩ := sequencerStep_progress hc hb hstep
    · exact ⟨1, u, by omega, sequencerRun_succ_of_turn 0 hturn, hended⟩
    · obtain ⟨n, t, hn, hrun, hended⟩ := ih (sequencerTurn_consistent hc hturn) hbusy (by omega)
      exact ⟨n + 1, t, by omega, (sequencerRun_succ_of_turn n hturn).trans hrun, hended⟩

/-- Settles O22: the turns left are at most the bound of R320, and each turn of a consistent state uses one up. -/
theorem runningCommandEnds : Obligations.RunningCommandEnds :=
  fun s hc hb => exists_run_to_end _ hc hb s.turnsLeft_le

end Sys2Proof.Machine
end

section
/-! Every step keeps the invariant of Safety.lean: an issue, an input and a whole step do, as a turn of the sequencer
does. -/

namespace Sys2Proof.Machine

/-! An issue. -/

theorem issue_consistent {s accepted t : State} (hc : Consistent s) (h : s.issue accepted = .next t)
    (ha : s.status.busy = false → Consistent accepted) : Consistent t := by
  obtain ⟨-, rfl⟩ | ⟨hidle, rfl⟩ := State.issue_cases h
  · exact hc.raise_issue (.inl rfl)
  · exact ha hidle

/-- 30_encoding.md R105, R106: each acceptance starts at the first step of its command's list. -/
theorem exec_consistent {i : Instr} {s t : State} (hc : Consistent s) (h : exec i s = .next t) : Consistent t := by
  obtain ⟨hpanels, hlayers, -⟩ := counts_of_valid hc.cfgValid
  cases i with
  | nop => exact issue_consistent hc h fun hidle => hc.complete hidle (i := .nop) rfl s.err
  | clrerr => exact issue_consistent hc h fun hidle => hc.complete hidle (i := .clrerr) rfl Err.reset
  | pllSolvepre | pllSolvepost | pllProgram | vtTx | cscMapfmt =>
    exact issue_consistent hc h fun _ =>
      hc.start rfl rfl rfl (.inl ⟨rfl, by decide, by decide⟩) (List.mem_cons_self ..) (by decide)
  | pllWaitlock | pllConfigure =>
    exact issue_consistent hc h fun _ => hc.start rfl rfl rfl (.inr rfl) (List.mem_cons_self ..) (by decide)
  | vtDc panel =>
    refine issue_consistent hc h fun hidle => ?_
    split
    · rename_i hpanel
      have hwf : (Instr.vtDc panel).wf = true := decide_eq_true (hpanel.trans_eq hpanels)
      exact hc.start hwf rfl rfl (.inl ⟨rfl, nofun, nofun⟩) (List.mem_cons_self ..) (by decide)
    · exact hc.raise_issue (.inr ⟨.inr rfl, hidle⟩)
  | cscLoad slot =>
    refine issue_consistent hc h fun hidle => ?_
    split
    · rename_i hslot
      have hwf : (Instr.cscLoad slot).wf = true := decide_eq_true (hslot.trans_eq hlayers)
      exact hc.start hwf rfl rfl (.inl ⟨rfl, nofun, nofun⟩) (List.mem_cons_self ..) (by decide)
    · exact hc.raise_issue (.inr ⟨.inr rfl, hidle⟩)

theorem issueWord_consistent {w : Word} {s t : State} (hc : Consistent s) (h : issueWord w s = .next t) :
    Consistent t := by
  unfold issueWord at h
  split at h
  · cases h
    exact hc.raise_issue (.inl rfl)
  · rename_i hidle
    split at h
    · cases h
      exact hc.raise_issue (.inr ⟨.inl rfl, by simpa using hidle⟩)
    · exact exec_consistent hc h

/-! The other inputs from outside. -/

theorem Consistent.writeRegister {s : State} (h : Consistent s) (v : Word) (r : EngReg) :
    Consistent (s.writeRegister v r) := by
  rw [State.writeRegister_frame]
  exact h.congr rfl rfl rfl rfl rfl rfl rfl rfl rfl rfl rfl h.txWf h.dcWf rfl

theorem windowWrite_consistent {index : Nat} {v : Word} {s t : State} (hc : Consistent s)
    (h : windowWrite index v s = .next t) : Consistent t := by
  unfold windowWrite at h
  split at h
  · exact issueWord_consistent hc h
  · cases h
    exact hc.writeRegister v _
  · cases h
    exact hc

theorem Consistent.hostRead {s : State} (h : Consistent s) (index : Nat) : Consistent (s.hostRead index) :=
  h.congr rfl rfl rfl rfl rfl rfl rfl rfl rfl rfl rfl h.txWf h.dcWf rfl

theorem Consistent.memWrite {s : State} (h : Consistent s) (space : Space) (off : Nat) (w : Word) :
    Consistent (s.memWrite space off w) := by
  obtain ⟨htx, hdc⟩ := s.memWrite_wf space off w h.txWf h.dcWf
  exact h.congr (by simp) (by simp) (by simp) (by simp) (by simp) (by simp) (by simp) (by simp) (by simp) (by simp)
    (by simp) htx hdc (by simp)

theorem foreignWrite_consistent {space : Space} {off : Nat} {v : Word} {s t : State} (hc : Consistent s)
    (h : foreignWrite space off v s = .next t) : Consistent t := by
  obtain e | e | ⟨e, -⟩ := foreignWrite_cases space off v s <;> rw [e] at h <;> cases h
  · exact hc.memWrite space off v
  · exact hc

/-- A reset event leaves the engine of the reset state, which is consistent with any valid configuration; the spaces are
kept or emptied. -/
theorem Consistent.platformReset {s : State} (h : Consistent s) : Consistent s.platformReset where
  cfgValid := h.cfgValid
  txWf := by
    show spaceWf (if s.status.busy then s.tx else []) = true
    split
    · exact h.txWf
    · rfl
  dcWf := by
    show spaceWf (if s.status.busy then s.dc else []) = true
    split
    · exact h.dcWf
    · rfl
  busyNotDone := nofun
  failDone := nofun
  idleStep _ := rfl
  busyStep := nofun
  accepted := resetIsConsistent.accepted
  pollBound := Nat.zero_le _
  polling := nofun
  resultInvalid _ := rfl
  resultTable := nofun
  coefYuv := nofun
  postSel := Nat.zero_le _
  prediv := .inl rfl
  fbdiv _ := Nat.zero_le _
  fracDiv _ := Nat.zero_le _
  rgbBanks := by
    show (if s.status.busy then s.rgbBank else s.rgbBank.map (· + 1)).length = s.cfg.consts.nLayer
    split
    · exact h.rgbBanks
    · exact (List.length_map _).trans h.rgbBanks

/-- `again` is the state a WAIT that is not over goes on from. -/
theorem performInput_consistent {i : Input} {again s t : State} (hc : Consistent s) (ha : Consistent again)
    (h : performInput i again s = .next t) : Consistent t := by
  match i with
  | .host (.wr index v) => exact windowWrite_consistent hc h
  | .host (.rd index) =>
    cases h
    exact hc.hostRead index
  | .host .wait =>
    cases h
    refine Consistent.hostRead ?_ 0x01
    split
    · exact ha
    · exact hc
  | .reset =>
    cases h
    exact hc.platformReset
  | .foreignTx index v => exact foreignWrite_consistent (space := .tx) hc h
  | .foreignDc index v => exact foreignWrite_consistent (space := .dc) hc h

/-! A whole step. -/

theorem Consistent.turnTaken {s : State} (h : Consistent s) : Consistent s.turnTaken := h.queues s.inputs s.turns.tail

theorem Consistent.inputTaken {s : State} (h : Consistent s) : Consistent s.inputTaken :=
  h.queues s.inputs.tail s.turns.tail

/-- Settles O37: a step is a turn of the sequencer, an input, or a turn with nothing to do, and each keeps the
invariant. -/
theorem stepKeepsConsistency : Obligations.StepKeepsConsistency := by
  intro s t hc h
  obtain ⟨-, ⟨-, hturn⟩ | ⟨-, -, rfl⟩ | ⟨i, -, hinput⟩⟩ := step_cases h
  · exact sequencerTurn_consistent hc.turnTaken hturn
  · exact hc.turnTaken
  · exact performInput_consistent hc.inputTaken hc.turnTaken hinput

end Sys2Proof.Machine
end

section
/-! From a consistent state every step answers a next state, but for a foreign write in the exclusive window
(70_reset_and_hazards.md R310; log 14). -/

namespace Sys2Proof.Machine

theorem exists_sequencerTurn {s : State} (hc : Consistent s) : ∃ t, sequencerTurn s = .next t := by
  cases hb : s.status.busy with
  | false => exact ⟨s, sequencerTurn_of_idle hb⟩
  | true =>
    rw [sequencerTurn_of_busy hb]
    exact exists_sequencerStep hc hb

/-- The input is a foreign write to a register the running command touches. -/
def BreaksWindow (s : State) (i : Input) : Prop :=
  (∃ index v, i = .foreignTx index v ∧ commandTouches s .tx (4 * index) = true) ∨
    (∃ index v, i = .foreignDc index v ∧ commandTouches s .dc (4 * index) = true)

theorem foreignWrite_next_or_refused (space : Space) (off : Nat) (v : Word) (s : State) :
    (∃ t, foreignWrite space off v s = .next t) ∨
      (foreignWrite space off v s = .refused .exclusiveWindow ∧ s.status.busy = true ∧
        commandTouches s space off = true) := by
  obtain e | e | hrefused := foreignWrite_cases space off v s
  · exact .inl ⟨_, e⟩
  · exact .inl ⟨_, e⟩
  · exact .inr hrefused

theorem performInput_next_or_refused (i : Input) (again s : State) :
    (∃ t, performInput i again s = .next t) ∨
      (performInput i again s = .refused .exclusiveWindow ∧ s.status.busy = true ∧ BreaksWindow s i) := by
  match i with
  | .host (.wr index v) => exact .inl (windowWrite_next index v s)
  | .host (.rd _) | .host .wait | .reset => exact .inl ⟨_, rfl⟩
  | .foreignTx index v =>
    exact (foreignWrite_next_or_refused .tx (4 * index) v s).imp_right
      fun ⟨hrefused, hb, htouch⟩ => ⟨hrefused, hb, .inl ⟨index, v, rfl, htouch⟩⟩
  | .foreignDc index v =>
    exact (foreignWrite_next_or_refused .dc (4 * index) v s).imp_right
      fun ⟨hrefused, hb, htouch⟩ => ⟨hrefused, hb, .inr ⟨index, v, rfl, htouch⟩⟩

theorem step_of_no_input {s : State} (hv : configValid s.cfg = true) (ha : s.nextAgent = .outside)
    (hi : s.inputs = []) : step s = .next s.turnTaken := by
  simp [step, hv, agentTurn, ha, outsideTurn, hi]

/-- Settles O38: the sequencer always has its turn; the outside has nothing to do, or an input, of which only a foreign
write is ever refused. -/
theorem consistentStateRuns : Obligations.ConsistentStateRuns := by
  intro s hc
  cases ha : s.nextAgent with
  | sequencer =>
    rw [step_sequencer hc.cfgValid ha]
    exact .inl (exists_sequencerTurn hc.turnTaken)
  | outside =>
    cases hi : s.inputs with
    | nil => exact .inl ⟨_, step_of_no_input hc.cfgValid ha hi⟩
    | cons i rest =>
      have habout : s.aboutTo i := ⟨ha, by rw [hi]; rfl⟩
      rw [step_outside hc.cfgValid habout]
      obtain hnext | ⟨hrefused, hb, ⟨index, v, rfl, htouch⟩ | ⟨index, v, rfl, htouch⟩⟩ :=
        performInput_next_or_refused i s.turnTaken s.inputTaken
      · exact .inl hnext
      · exact .inr ⟨hrefused, hb, rfl, .inl ⟨index, v, rfl, htouch⟩⟩
      · exact .inr ⟨hrefused, hb, rfl, .inr ⟨index, v, rfl, htouch⟩⟩

end Sys2Proof.Machine
end

section
/-! The words of unit T by their fields (41_timing.md R183, R193, R194), the step list of VT.TX, and the agreement of what
VT.TX and VT.DC write (R196). -/

namespace Sys2Proof.Machine

/-! The composite byte and the step list of VT.TX. -/

/-- Settles O24: the byte depends on three bits of the mode, and agrees for each of their eight values. -/
theorem compositeByteBits : Obligations.CompositeByteBits := by
  intro c m hbits
  unfold timingCtlByte Mode.interlace Mode.phsync Mode.pvsync
  rw [hbits]
  generalize m.flags.getLsbD 0 = hsync
  generalize m.flags.getLsbD 1 = vsync
  generalize m.flags.getLsbD 2 = interlace
  revert hsync vsync interlace
  decide

/-- A step of VT.TX is a register of VT.TX (30_encoding.md R110). -/
theorem mem_vtTx_steps {c : Config} {a : Byte} :
    a ∈ stepList c 0x10 ↔ a.toNat ∈ (timingSteps c).map BitVec.toNat :=
  (List.mem_map_of_injective fun _ _ => BitVec.eq_of_toNat_eq).symm

/-- Settles O25: the default list is computed, and a high register is listed for a pair alone. -/
theorem timingStepsFollowTxWidth : Obligations.TimingStepsFollowTxWidth := by
  intro c
  constructor
  · intro hwidth
    change timingSteps c = _
    rw [timingSteps, hwidth]
    rfl
  · simp only [mem_vtTx_steps, toNat_mem_timingSteps]
    simp

/-! The timing words, with the default layout. -/

theorem placed15_eq (v : Half) (pos : Nat) : placed15 v pos = (v.extractLsb' 0 15).setWidth 32 <<< pos := by
  rw [placed15, BitVec.setWidth_eq_extractLsb' (v := 16) (by decide)]

theorem lengthWord_default (active total : Half) :
    lengthWord {} active total = 0#1 ++ total.extractLsb' 0 15 ++ 0#1 ++ active.extractLsb' 0 15 := by
  refine .trans ?_ (BitVec.setWidth_eq _)
  simp only [setWidth_append_eq_or, BitVec.shiftLeft_or_distrib, ← BitVec.shiftLeft_add]
  simp [lengthWord, placed15_eq]

theorem syncWord_default (start stop : Half) (positive : Bool) : syncWord {} start stop positive =
    BitVec.ofBool positive ++ 1#1 ++ stop.extractLsb' 0 15 ++ start.extractLsb' 0 15 := by
  refine .trans ?_ (BitVec.setWidth_eq _)
  simp only [setWidth_append_eq_or, BitVec.shiftLeft_or_distrib, ← BitVec.shiftLeft_add]
  simp [syncWord, placed15_eq, bit_eq_setWidth, BitVec.or_assoc]

/-! The two blocks. -/

/-- A mode value below 32,768 stands whole in a field of 15 bits. -/
theorem toNat_low15 {v : Half} (h : v.toNat < 32768) : (v.extractLsb' 0 15).toNat = v.toNat := by
  rw [BitVec.extractLsb'_toNat]
  exact Nat.mod_eq_of_lt h

theorem lengthWord_fields (active total : Half) :
    (lengthWord {} active total).extractLsb' 0 15 = active.extractLsb' 0 15 ∧
      (lengthWord {} active total).extractLsb' 16 15 = total.extractLsb' 0 15 := by
  rw [lengthWord_default]
  refine ⟨BitVec.extractLsb'_append_eq_right, ?_⟩
  rw [BitVec.extractLsb'_append_eq_of_le (by decide), BitVec.extractLsb'_append_eq_of_le (by decide)]
  exact BitVec.extractLsb'_append_eq_right

theorem syncWord_fields (start stop : Half) (positive : Bool) :
    (syncWord {} start stop positive).extractLsb' 0 15 = start.extractLsb' 0 15 ∧
      (syncWord {} start stop positive).extractLsb' 15 15 = stop.extractLsb' 0 15 ∧
      (syncWord {} start stop positive).getLsbD 31 = positive := by
  rw [syncWord_default]
  refine ⟨BitVec.extractLsb'_append_eq_right, ?_, ?_⟩
  · rw [BitVec.extractLsb'_append_eq_of_le (by decide)]
    exact BitVec.extractLsb'_append_eq_right
  · simp only [BitVec.getLsbD_append]
    simp

/-- 41_timing.md R196 on one axis: no difference of an ordered mode wraps. -/
theorem axis_agrees {display start stop total : Half} {positive : Bool} (hdisplay : display ≤ start)
    (hstart : start ≤ stop) (hstop : stop ≤ total) (htotal : total.toNat < 32768) {length sync : Word}
    (hlength : length = lengthWord {} display total) (hsync : sync = syncWord {} start stop positive) :
    total.toNat = (length.extractLsb' 16 15).toNat ∧
    (total - display).toNat = (length.extractLsb' 16 15).toNat - (length.extractLsb' 0 15).toNat ∧
    (total - start).toNat = (length.extractLsb' 16 15).toNat - (sync.extractLsb' 0 15).toNat ∧
    (stop - start).toNat = (sync.extractLsb' 15 15).toNat - (sync.extractLsb' 0 15).toNat := by
  subst hlength hsync
  obtain ⟨hactive, hlast⟩ := lengthWord_fields display total
  obtain ⟨hfirst, hend, -⟩ := syncWord_fields start stop positive
  have hstarts : start ≤ total := BitVec.le_trans hstart hstop
  have hdisplays : display ≤ total := BitVec.le_trans hdisplay hstarts
  rw [hactive, hlast, hfirst, hend, toNat_low15 htotal, toNat_low15 (hdisplays.trans_lt htotal),
    toNat_low15 (hstarts.trans_lt htotal), toNat_low15 (hstop.trans_lt htotal)]
  exact ⟨rfl, BitVec.toNat_sub_of_le hdisplays, BitVec.toNat_sub_of_le hstarts, BitVec.toNat_sub_of_le hstart⟩

/-- Bits 2 and 3 of the composite byte. -/
theorem timingCtlByte_polarities {c : Config} (m : Mode) (h : c.tctl = {}) :
    (timingCtlByte c m).getLsbD 2 = m.phsync ∧ (timingCtlByte c m).getLsbD 3 = m.pvsync := by
  rw [compositeByteBits c m h]
  simp only [BitVec.getLsbD_append, Mode.phsync, Mode.pvsync]
  simp

/-- Settles O28: each axis agrees, and each polarity stands in both blocks. -/
theorem timingBlocksAgree : Obligations.TimingBlocksAgree := by
  intro c m wH wS wV wT htctl hlayout hhdelay hvdelay hh₁ hh₂ hh₃ hh₄ hv₁ hv₂ hv₃ hv₄ hwH hwS hwV hwT
  rw [hlayout] at hwH hwS hwV hwT
  obtain ⟨htotal, hblank, hdelay, hduration⟩ := axis_agrees hh₁ hh₂ hh₃ hh₄ hwH hwS
  obtain ⟨vtotal, vblank, vdelay, vduration⟩ := axis_agrees hv₁ hv₂ hv₃ hv₄ hwV hwT
  have hdelay_eq : extHdelay c m = m.htotal - m.hsyncStart := by rw [extHdelay, hhdelay]; rfl
  have vdelay_eq : extVdelay c m = m.vtotal - m.vsyncStart := by rw [extVdelay, hvdelay]; rfl
  obtain ⟨hpol, vpol⟩ := timingCtlByte_polarities m htctl
  obtain ⟨-, -, hsync⟩ := syncWord_fields m.hsyncStart m.hsyncEnd m.phsync
  obtain ⟨-, -, vsync⟩ := syncWord_fields m.vsyncStart m.vsyncEnd m.pvsync
  exact ⟨htotal, hblank, hdelay_eq ▸ hdelay, hduration, vtotal, vblank, vdelay_eq ▸ vdelay, vduration,
    by rw [hpol, hwS, hsync], by rw [vpol, hwT, vsync]⟩

end Sys2Proof.Machine

namespace Sys2Proof

/-- Settles O27: both words by their layout lemmas. -/
theorem timingWordFields : Obligations.TimingWordFields := by
  rintro _ a b positive rfl
  exact ⟨Machine.lengthWord_default a b, Machine.syncWord_default a b positive⟩

end Sys2Proof
end

section
/-! The coefficient registers determine the table (42_colour.md R225). -/

namespace Sys2Proof.Machine

/-- Two lanes side by side are known from their word. -/
theorem lanes_of_lanePair_eq {a b a' b' : Word} (h : lanePair a b = lanePair a' b') :
    a.setWidth 16 = a'.setWidth 16 ∧ b.setWidth 16 = b'.setWidth 16 := by
  rw [lanePair_eq_append, lanePair_eq_append] at h
  constructor
  · simpa only [BitVec.extractLsb'_append_eq_right] using congrArg (BitVec.extractLsb' 0 16) h
  · simpa only [BitVec.extractLsb'_append_eq_left] using congrArg (BitVec.extractLsb' 16 16) h

/-- A word that fits 16 bits as an unsigned number is the zero extension of its lane. -/
theorem setWidth_lane_of_unsigned {a : Word} (h : a.toNat ≤ 65535) : (a.setWidth 16).setWidth 32 = a :=
  BitVec.setWidth_setWidth_eq_self (Nat.lt_succ_of_le h)

/-- A word that fits 16 bits as a signed number is the sign extension of its lane. -/
theorem signExtend_lane_of_signed {a : Word} (hlo : -32768 ≤ a.toInt) (hhi : a.toInt ≤ 32767) :
    (a.setWidth 16).signExtend 32 = a := by
  apply BitVec.eq_of_toInt_eq
  rw [BitVec.toInt_signExtend_of_le (by decide), BitVec.toInt_setWidth,
    ← Int.bmod_bmod_of_dvd (show 2 ^ 16 ∣ 2 ^ 32 by decide), ← BitVec.toInt_eq_toNat_bmod]
  exact Int.bmod_eq_of_le hlo (Int.lt_add_one_of_le hhi)

/-- The lanes of a table are known from its coefficient registers. -/
theorem lanes_of_coefWord_eq {ta tb : Vector Word 16} (h : ∀ k < 10, coefWord ta k = coefWord tb k) (k : Fin 16)
    (hk : k.val < 8 ∨ 12 ≤ k.val) : ta[k].setWidth 16 = tb[k].setWidth 16 := by
  obtain ⟨h0, h1⟩ := lanes_of_lanePair_eq (h 0 (by decide))
  obtain ⟨h2, h3⟩ := lanes_of_lanePair_eq (h 1 (by decide))
  obtain ⟨h4, h5⟩ := lanes_of_lanePair_eq (h 2 (by decide))
  obtain ⟨h6, h7⟩ := lanes_of_lanePair_eq (h 3 (by decide))
  obtain ⟨h12, h13⟩ := lanes_of_lanePair_eq (h 8 (by decide))
  obtain ⟨h14, h15⟩ := lanes_of_lanePair_eq (h 9 (by decide))
  obtain ⟨k, hlt⟩ := k
  rcases hk with hk | hk
  · change k < 8 at hk
    interval_cases k
    exacts [h0, h1, h2, h3, h4, h5, h6, h7]
  · change 12 ≤ k at hk
    interval_cases k
    exacts [h12, h13, h14, h15]

/-- The entries that have a register each. -/
theorem wholes_of_coefWord_eq {ta tb : Vector Word 16} (h : ∀ k < 10, coefWord ta k = coefWord tb k) (k : Fin 16)
    (hk : ¬ (k.val < 8 ∨ 12 ≤ k.val)) : ta[k] = tb[k] := by
  obtain ⟨k, hlt⟩ := k
  obtain ⟨hlo, hhi⟩ : 8 ≤ k ∧ k < 12 := by simpa using hk
  interval_cases k
  exacts [h 4 (by decide), h 5 (by decide), h 6 (by decide), h 7 (by decide)]

/-- Settles O33: an entry is a whole register, or the extension of a lane of one. -/
theorem coefficientPackingInjective : Obligations.CoefficientPackingInjective := by
  intro ta tb hfits h
  have entries : ∀ k : Fin 16, ta[k] = tb[k] := by
    intro k
    by_cases hk : k.val < 8 ∨ 12 ≤ k.val
    · have hlane := lanes_of_coefWord_eq h k hk
      rcases hfits with hsigned | hunsigned
      · obtain ⟨⟨hloa, hhia⟩, hlob, hhib⟩ := hsigned k hk
        rw [← signExtend_lane_of_signed hloa hhia, hlane, signExtend_lane_of_signed hlob hhib]
      · obtain ⟨ha, hb⟩ := hunsigned k hk
        rw [← setWidth_lane_of_unsigned ha, hlane, setWidth_lane_of_unsigned hb]
    · exact wholes_of_coefWord_eq h k hk
  exact Vector.ext fun k hk => entries ⟨k, hk⟩

end Sys2Proof.Machine
end

section
/-! A reset event that cuts a command short (70_reset_and_hazards.md R291; log 8). -/

namespace Sys2Proof.Machine

theorem memRead_platformReset_of_busy {s : State} (hb : s.status.busy = true) (space : Space) (off : Nat) :
    s.platformReset.memRead space off = s.memRead space off := by
  cases space <;> simp [State.memRead, State.space, State.platformReset, hb]

/-- Settles O46: the step is the reset event, which keeps both spaces and the banks while BUSY. -/
theorem resetDuringCommandKeepsForeignRegisters : Obligations.ResetDuringCommandKeepsForeignRegisters := by
  intro s t hv habout hb h
  have hstep : step s = .next s.inputTaken.platformReset := step_outside hv habout
  rw [hstep] at h
  cases h
  exact ⟨memRead_platformReset_of_busy hb, if_pos hb, rfl, rfl, rfl, rfl, rfl, rfl⟩

end Sys2Proof.Machine
end
